-- ==== Sys2Proof/Word.lean ====
section
/-! DEFINITION. The widths of the core's values (spec/00_scope.md R6): `W` = 256 bits for every host-visible data
register, `FW` = 255 bits for every internal working register. -/

namespace Sys2Proof

/-- One byte: the carrier of a command code, and the width of `STATUS` and `ITER` (R10). -/
abbrev Byte := BitVec 8

/-- A host-visible data register's value: an unsigned integer below 2^256 (R6 `W`, R11, R12, R13). -/
abbrev Word := BitVec 256

/-- A working register's value: 255 bits (R6 `FW`, R19). In reachable states it is canonical, below `P` (R22). -/
abbrev FieldElt := BitVec 255

/-- A point in ratio form (x, z) (spec/00_scope.md section 6, `Ratio form`). -/
abbrev Ratio := FieldElt × FieldElt

end Sys2Proof
end

