-- ==== Sys2Proof/Config.lean ====
section
/-! DEFINITION. The curve constants, held in one immutable record (spec/00_scope.md R6, R25). No rule changes them at run
time, and this hardware leaves no parameter open (spec/92_eei_decisions.md, "Parameters left open"), so the model has no
free value. -/

namespace Sys2Proof

/-- The parameters of R6. -/
structure CurveParams where
  /-- The field prime. -/
  p : Nat
  /-- The curve coefficient A. -/
  a : Nat
  /-- `A24P` = (A+2)/4, used only by the doubler. -/
  a24p : Nat
  /-- `A24M` = (A-2)/4, used only by the ladder step. -/
  a24m : Nat
  /-- The base point's affine X, used only by the differential adder. -/
  baseX : Nat
  /-- The base point's ratio denominator. -/
  baseZ : Nat
  /-- The number of ladder iterations and of scalar bits consumed. -/
  nbits : Nat
  deriving DecidableEq, Repr

/-- The values this hardware takes: the three primary constants of R2 and those R3 derives from them. -/
def curve : CurveParams where
  p := 2 ^ 255 - 19
  a := 486662
  a24p := (486662 + 2) / 4
  a24m := (486662 - 2) / 4
  baseX := 9
  baseZ := 1
  nbits := 255

/-- The field prime P = 2^255 - 19 (R2, R49). -/
def P : Nat := curve.p

end Sys2Proof
end

