-- ==== Sys2Proof/Machine/Field.lean ====
section
/-! DEFINITION. Field arithmetic modulo P: the three functions of the field arithmetic unit as the mathematical functions
their contracts determine (spec/40_field_interface.md R50 to R53, R56), the core's four field operations built from them
(R55), and the width changes at the register boundary (spec/00_scope.md R7). -/

namespace Sys2Proof.Machine

/-- `reduce(v)` = v mod P, for every integer (R50). -/
def reduce (v : Int) : FieldElt := BitVec.ofNat 255 (v % (P : Int)).toNat

/-- `square(v)` = (v * v) mod P, for every integer (R51). -/
def square (v : Int) : FieldElt := reduce (v * v)

/-- `b ^ e` modulo `m` by repeated squaring, for exponents below 2^fuel. -/
def powMod (m : Nat) : Nat → Nat → Nat → Nat
  | 0, _, _ => 1 % m
  | fuel + 1, b, e =>
    let h := powMod m fuel (b * b % m) (e / 2)
    if e % 2 = 1 then h * b % m else h

/-- `inverseOf(v)`: the canonical inverse of v modulo P, computed as v^(P-2) (R52 admits that form). It has no value where
v ≡ 0 (R53): `none` is the unit's report that it was asked to invert zero (R59). -/
def inverseOf (v : Int) : Option FieldElt :=
  if v % (P : Int) = 0 then none
  else some (BitVec.ofNat 255 (powMod P 255 (v % (P : Int)).toNat (P - 2)))

/-- `fadd(a, b)` = reduce(a + b) (R55); its laws are R58's. -/
def fadd (a b : FieldElt) : FieldElt := reduce ((a.toNat : Int) + b.toNat)

/-- `fsub(a, b)` = reduce(a - b); the difference may be negative (R55); its laws are R58's. -/
def fsub (a b : FieldElt) : FieldElt := reduce ((a.toNat : Int) - b.toNat)

/-- `fmul(a, b)` = reduce(a * b) (R55); its laws are R58's. -/
def fmul (a b : FieldElt) : FieldElt := reduce ((a.toNat : Int) * b.toNat)

/-- `fsq(a)` = square(a) (R55); its laws are R58's. -/
def fsq (a : FieldElt) : FieldElt := square (a.toNat : Int)

/-- An operand register's value brought into the field, as START captures it (R11, R43). -/
def reduceWord (w : Word) : FieldElt := reduce (w.toNat : Int)

/-- `zext_256(v)`: a working value on a result register, bit 255 zero (R7). -/
def zext256 (a : FieldElt) : Word := a.setWidth 256

/-- `K[254:0]`: the scalar as START captures it, bit 255 dropped (R12, R21, R43). -/
def low255 (w : Word) : BitVec 255 := w.setWidth 255

/-- The constant `A24P` as a field element (R3). -/
def a24p : FieldElt := BitVec.ofNat 255 curve.a24p

/-- The constant `A24M` as a field element (R3). -/
def a24m : FieldElt := BitVec.ofNat 255 curve.a24m

/-- The constant `BASEX` as a field element (R3). -/
def baseX : FieldElt := BitVec.ofNat 255 curve.baseX

/-- The constant `BASEZ` as a field element (R3). -/
def baseZ : FieldElt := BitVec.ofNat 255 curve.baseZ

end Sys2Proof.Machine
end

