-- ==== Sys2Proof/Machine/State.lean ====
section
/-! DEFINITION. The state of one core instance (spec/10_state.md R10) and of the host that drives it, as plain data.

The core's registers: `opa` .. `rz`, `done`, `rxv`, `rzv`, `err`, `iter` and `seq`. `seq` is the sequencer: it holds PHASE,
OP and the working registers `X1 X2 Z2 X3 Z3 SWAP KL`, which R24 says have a value only between START and the completing
step, "for example by keeping them inside a `call` record that exists only while PHASE != IDLE"; a constructor holds exactly
the working registers its command's START writes (R43). `BUSY` is no field: R14 says it is not separate state.

The host: `script`, the host events still to come in the order the host issues them (R46), and `seen`, what its reads
returned. The core knows nothing of either. -/

namespace Sys2Proof.Machine

/-- The registers the host may write, and that START reads (R10 class `operand`). -/
inductive OperandReg where
  | opa | opb | opc | opd | k
  deriving DecidableEq, Repr

/-- The nine host-visible registers (R31). -/
inductive HostReg where
  | opa | opb | opc | opd | k | rx | rz | status | iter
  deriving DecidableEq, Repr

/-- The error code `STATUS.ERR` (R98). -/
inductive ErrCode where
  /-- Code 0: the call completed and wrote its result. -/
  | none
  /-- Code 1: AFF was given z = 0 modulo P (R99). -/
  | degenerateRatio
  /-- Code 2: the field unit reports that it was asked to invert zero (R100); no reachable state takes it. -/
  | inversionOfZero
  /-- Code 3: reserved, never produced (R101). -/
  | invalidArgument
  deriving DecidableEq, Repr

/-- The values of the register PHASE (R18). -/
inductive Phase where
  | idle | loop | final | exec
  deriving DecidableEq, Repr

/-- The working registers of a MULT call (R19, R20, R21). -/
structure LadderRegs where
  /-- The reduced input X-coordinate, constant across the loop. -/
  x1 : FieldElt
  /-- The even running point's x. -/
  x2 : FieldElt
  /-- The even running point's z. -/
  z2 : FieldElt
  /-- The odd running point's x. -/
  x3 : FieldElt
  /-- The odd running point's z. -/
  z3 : FieldElt
  /-- The swap flag SWAP. -/
  swap : Bool
  /-- The captured scalar bits 254..0. -/
  kl : BitVec 255
  deriving DecidableEq, Repr

/-- The sequencer: PHASE, OP and the working registers that hold a value in that phase (R16, R18, R19, R24). -/
inductive Sequencer where
  /-- PHASE = IDLE: no call, no working register holds a value. -/
  | idle
  /-- PHASE = LOOP, OP = MULT. -/
  | loop (r : LadderRegs)
  /-- PHASE = FINAL, OP = MULT. -/
  | final (r : LadderRegs)
  /-- PHASE = EXEC, OP = DBL: X2, Z2 hold the captured (x, z). -/
  | execDbl (x2 z2 : FieldElt)
  /-- PHASE = EXEC, OP = DADD: X2, Z2 and X3, Z3 hold the captured (x, z) and (prevX, prevZ). -/
  | execDadd (x2 z2 x3 z3 : FieldElt)
  /-- PHASE = EXEC, OP = AFF: X2, Z2 hold the captured (x, z). -/
  | execAff (x2 z2 : FieldElt)
  deriving DecidableEq, Repr

/-- What a host line `WR r, v` writes: a value, or one the host noted at an earlier read (the `a` and `b` of MOVR, R47). -/
inductive Source where
  /-- The integer written in the line. -/
  | lit (v : Word)
  /-- The value noted `back` reads ago, 0 for the last one. -/
  | noted (back : Nat)
  deriving DecidableEq, Repr

/-- One line of a host program (R46), and `tick`, which gives the sequencer its turn: the line `step` of
spec/95_test_vectors.md program 4, by which a script fixes one interleaving of host and core (R36). -/
inductive HostLine where
  /-- `WR r, v`. -/
  | wr (r : OperandReg) (v : Source)
  /-- `START m`, carrying the 2-bit code (R41). -/
  | start (code : BitVec 2)
  /-- `WAIT`: read STATUS until DONE = 1, the sequencer taking its steps meanwhile. -/
  | wait
  /-- `RD r`. -/
  | rd (r : HostReg)
  /-- `RESET`. -/
  | reset
  /-- The sequencer's turn. -/
  | tick
  deriving DecidableEq, Repr

/-- One core instance and its host. -/
structure State where
  /-- `OPA`: X of MULT, x of the others; `none` is `novalue` (R11, R23). -/
  opa : Option Word
  /-- `OPB`: z of DBL, DADD, AFF. -/
  opb : Option Word
  /-- `OPC`: prevX of DADD. -/
  opc : Option Word
  /-- `OPD`: prevZ of DADD. -/
  opd : Option Word
  /-- `K`: the scalar of MULT (R12). -/
  k : Option Word
  /-- `RX` (R13). -/
  rx : Option Word
  /-- `RZ` (R13). -/
  rz : Option Word
  /-- `STATUS.DONE` (R14). -/
  done : Bool
  /-- `STATUS.RXV` (R14). -/
  rxv : Bool
  /-- `STATUS.RZV` (R14). -/
  rzv : Bool
  /-- `STATUS.ERR` (R14, R98). -/
  err : ErrCode
  /-- `ITER` (R17). -/
  iter : BitVec 8
  /-- PHASE, OP and the working registers (R16, R18 to R21, R24). -/
  seq : Sequencer
  /-- The host's lines still to come, the next one first. -/
  script : List HostLine
  /-- What the host's reads returned, the last one first. -/
  seen : List (HostReg × Word)
  deriving DecidableEq, Repr

/-- The state just after RESET (R29): idle, STATUS 0x00, ITER 0, every data register `novalue`, no working register holding
a value. The host has no line to issue and has read nothing (notes/assumptions/2.md). -/
def State.reset : State where
  opa := none
  opb := none
  opc := none
  opd := none
  k := none
  rx := none
  rz := none
  done := false
  rxv := false
  rzv := false
  err := .none
  iter := 0
  seq := .idle
  script := []
  seen := []

/-- What stops the machine with a fault. The hardware itself has none: its errors are completions (R97, R114). -/
inductive Fault where
  /-- Raised by the ITER step when ITER is already 255, so that no scalar bit 254 - ITER exists (R73, R79). No reachable
  state takes it: LOOP implies ITER < 255 (R18). Safe: the model stops where the spec gives no step. -/
  | loopPastLastBit
  deriving DecidableEq, Repr

/-- What the model gives no meaning. -/
inductive Refusal where
  /-- Raised by the dispatch for a command without a meaning; no command of this model is one. Safe. -/
  | notModelled (mnemonic : String)
  /-- Raised by START when an operand register the command reads holds `novalue` (R23, R43, R114, R122;
  spec/93_implementation_defined.md U9: "Not an error code, not a default operand"). Safe: the spec says that this host move is
  refused. -/
  | startNoValue (r : OperandReg)
  /-- Raised by a host read of a register that holds `novalue`, or of RX or RZ with its valid bit 0 (R23, R28, R114, R122;
  spec/90_conflicts.md C11: "a register that holds no value cannot return one, whichever register it is"). Safe: the spec says
  that this host move is refused. -/
  | readNoValue (r : HostReg)
  /-- Raised by a host line that writes a value noted at a read the host never made. Safe: such a line is no host event of
  R46; the core is not involved. -/
  | nothingNoted (back : Nat)
  deriving DecidableEq, Repr

/-- The outcome of a step of this machine. -/
abbrev Outcome := Host.Outcome State Fault Refusal

end Sys2Proof.Machine
end

