-- ==== Sys2Proof/Machine/Flags.lean ====
section
/-! DEFINITION. STATUS: its derived bit BUSY, the error codes and the packed byte the host reads (spec/10_state.md R14, R15;
spec/60_exceptions.md R98), and the codes of PHASE (R18). -/

namespace Sys2Proof.Machine

/-- The 2-bit value of `STATUS.ERR` (R98). -/
def ErrCode.code : ErrCode → BitVec 2
  | .none => 0
  | .degenerateRatio => 1
  | .inversionOfZero => 2
  | .invalidArgument => 3

/-- The 2-bit value of PHASE (R18). -/
def Phase.code : Phase → BitVec 2
  | .idle => 0
  | .loop => 1
  | .final => 2
  | .exec => 3

/-- The register PHASE (R18). -/
def State.phase (s : State) : Phase :=
  match s.seq with
  | .idle => .idle
  | .loop _ => .loop
  | .final _ => .final
  | .execDbl _ _ => .exec
  | .execDadd _ _ _ _ => .exec
  | .execAff _ _ => .exec

/-- `STATUS.BUSY`: 1 exactly when PHASE is not IDLE (R14). -/
def State.busy (s : State) : Bool := s.phase != .idle

/-- STATUS as the host reads it: bit 0 BUSY, bit 1 DONE, bit 2 RXV, bit 3 RZV, bits 5:4 ERR, bits 7:6 zero (R15). -/
def State.statusByte (s : State) : BitVec 8 :=
  (0 : BitVec 2) ++ s.err.code ++ BitVec.ofBool s.rzv ++ BitVec.ofBool s.rxv ++ BitVec.ofBool s.done ++ BitVec.ofBool s.busy

/-- The register OP, which holds a value only during a call (R16, R24). -/
def State.op (s : State) : Option (BitVec 2) :=
  match s.seq with
  | .idle => none
  | .loop _ => some 0
  | .final _ => some 0
  | .execDbl _ _ => some 1
  | .execDadd _ _ _ _ => some 2
  | .execAff _ _ => some 3

end Sys2Proof.Machine
end

