-- ==== Sys2Proof/Syntax.lean ====
section
/-! DEFINITION. The four commands of spec/opcode_table.json (spec/30_encoding.md R42). A command carries no register
field, no immediate and no mode bit (R41): its operands are bound to registers by R42. -/

namespace Sys2Proof

/-- The commands, one constructor per row of spec/opcode_table.json. -/
inductive Instr where
  /-- `MULT` = pointMult(X, n): the Montgomery ladder (R71). -/
  | mult
  /-- `DBL` = pointDouble(x, z): projective point doubling (R63). -/
  | dbl
  /-- `DADD` = pointAdd1(x, z, prevX, prevZ): differential point addition (R67). -/
  | dadd
  /-- `AFF` = X(x, z): affine recovery (R60). -/
  | aff
  deriving DecidableEq, Repr

/-- The command's name in spec/opcode_table.json. -/
def Instr.mnemonic : Instr → String
  | .mult => "MULT"
  | .dbl => "DBL"
  | .dadd => "DADD"
  | .aff => "AFF"

end Sys2Proof
end

