-- ==== Sys2Proof/Machine/Operands.lean ====
section
/-! DEFINITION. Operand binding: which registers a command reads (spec/30_encoding.md R42, R43), and reading one of them.
No command has another operand form (spec/20_memory.md R40). -/

namespace Sys2Proof.Machine

/-- `need(op)`: the operand registers the command reads, in the order of R42. -/
def need : Instr → List OperandReg
  | .mult => [.opa, .k]
  | .dbl => [.opa, .opb]
  | .dadd => [.opa, .opb, .opc, .opd]
  | .aff => [.opa, .opb]

/-- What an operand register holds; `none` is `novalue` (R23). -/
def State.operand (s : State) : OperandReg → Option Word
  | .opa => s.opa
  | .opb => s.opb
  | .opc => s.opc
  | .opd => s.opd
  | .k => s.k

/-- The operand register replaced whole (R11, R12). -/
def State.setOperand (s : State) (r : OperandReg) (v : Word) : State :=
  match r with
  | .opa => { s with opa := some v }
  | .opb => { s with opb := some v }
  | .opc => { s with opc := some v }
  | .opd => { s with opd := some v }
  | .k => { s with k := some v }

/-- Goes on with an operand register's value; a START that finds `novalue` there is refused (R23, R43). -/
def withOperand (s : State) (r : OperandReg) (go : Word → Outcome) : Outcome :=
  match s.operand r with
  | none => .refused (.startNoValue r)
  | some v => go v

end Sys2Proof.Machine
end

