-- ==== Sys2Proof/Machine/Ops.lean ====
section
/-! DEFINITION. The shared operations on the state: accepting a START (spec/30_encoding.md R43), completing a call with a
result (R13, R60, R63, R67, R80), completing it with an error, which is the core's trap entry (spec/60_exceptions.md R106;
there is no return from it but the next START or RESET, R107), RESET (spec/70_reset_and_hazards.md R115), and the host's
reads (R28). The core has no memory (spec/20_memory.md R30). -/

namespace Sys2Proof.Machine

/-- The sequencer's state replaced. -/
def State.setSeq (s : State) (q : Sequencer) : State := { s with seq := q }

/-- ITER replaced. -/
def State.setIter (s : State) (n : BitVec 8) : State := { s with iter := n }

/-- The host's remaining lines replaced. -/
def State.setScript (s : State) (ls : List HostLine) : State := { s with script := ls }

/-- A read's value noted by the host. -/
def State.note (s : State) (r : HostReg) (v : Word) : State := { s with seen := (r, v) :: s.seen }

/-- What an accepted START does for every command: DONE, ERR, RXV, RZV and ITER cleared, RX and RZ without a value, the
working registers captured and PHASE set as `q` says (R43). -/
def State.accept (s : State) (q : Sequencer) : State :=
  { s with rx := none, rz := none, done := false, rxv := false, rzv := false, err := .none, iter := 0, seq := q }

/-- START while a call is running changes nothing and queues nothing; otherwise `go` decides (R43). -/
def whenIdle (s : State) (go : Outcome) : Outcome :=
  match s.seq with
  | .idle => go
  | .loop _ | .final _ | .execDbl _ _ | .execDadd _ _ _ _ | .execAff _ _ => .next s

/-- Completion with a ratio result: RX and RZ written, RXV = RZV = DONE = 1, ERR = 0, PHASE = IDLE (R63, R67, R80). -/
def State.completeRatio (s : State) (p : Ratio) : State :=
  { s with rx := some (zext256 p.1), rz := some (zext256 p.2), done := true, rxv := true, rzv := true, err := .none,
           seq := .idle }

/-- Completion with an affine result: RX written, RZ without a value, RXV = DONE = 1, RZV = 0, ERR = 0, PHASE = IDLE (R60). -/
def State.completeAffine (s : State) (x : FieldElt) : State :=
  { s with rx := some (zext256 x), rz := none, done := true, rxv := true, rzv := false, err := .none, seq := .idle }

/-- `raise <Error>`: completion with an error, no result, the code in ERR, DONE = 1, PHASE = IDLE, all else kept (R106). -/
def State.raise (s : State) (e : ErrCode) : State :=
  { s with rx := none, rz := none, done := true, rxv := false, rzv := false, err := e, seq := .idle }

/-- The RESET event: the core as R29 says, a running call abandoned (R115, R116). The host's lines and notes are not the
core's and stay. -/
def State.resetCore (s : State) : State := { State.reset with script := s.script, seen := s.seen }

/-- What a host read of a register returns: a result only while its valid bit is 1, STATUS and ITER at any time, an operand
when it holds a value (R28). A value narrower than 256 bits is noted as the integer it is. -/
def State.hostRead (s : State) : HostReg → Option Word
  | .opa => s.opa
  | .opb => s.opb
  | .opc => s.opc
  | .opd => s.opd
  | .k => s.k
  | .rx => if s.rxv then s.rx else none
  | .rz => if s.rzv then s.rz else none
  | .status => some (s.statusByte.setWidth 256)
  | .iter => some (s.iter.setWidth 256)

/-- Every operand register the command reads given a value where it holds none, as the host must before a START (R118):
used only to place a command for its first run. -/
def State.supply (s : State) (v : Word) : List OperandReg → State
  | [] => s
  | r :: rs =>
    match s.operand r with
    | none => (s.setOperand r v).supply v rs
    | some _ => s.supply v rs

end Sys2Proof.Machine
end

