-- ==== Sys2Proof/Machine/Affine.lean ====
section
/-! DEFINITION. `AFF`, affine recovery (spec/41_affine_recovery.md R60): its START and its EXEC step, the only one that can
end in an error. -/

namespace Sys2Proof.Machine

/-- x · z⁻¹ on captured operands, or the error it raises. The zero test comes first and decides alone (R61); a report of the
field unit that it was asked to invert zero becomes INVERSION_OF_ZERO and is never turned into a number (R59, R100). -/
def affine (x z : FieldElt) : Except ErrCode FieldElt :=
  if z = 0 then .error .degenerateRatio
  else
    match inverseOf (z.toNat : Int) with
    | none => .error .inversionOfZero
    | some w => .ok (fmul x w)

/-- `AFF(x, z)` on operand values (R45, R60). -/
def pointAffine (x z : Word) : Except ErrCode FieldElt := affine (reduceWord x) (reduceWord z)

/-- `START AFF`: reads OPA and OPB, PHASE becomes EXEC (R43, R60). -/
def execAff (s : State) : Outcome :=
  whenIdle s <|
    withOperand s .opa fun x =>
      withOperand s .opb fun z => .next (s.accept (.execAff (reduceWord x) (reduceWord z)))

/-- The EXEC step with OP = AFF: the affine result, or completion with the error (R60, R106). -/
def affStep (s : State) (x z : FieldElt) : Outcome :=
  match affine x z with
  | .ok v => .next (s.completeAffine v)
  | .error e => .next (s.raise e)

end Sys2Proof.Machine
end

