-- ==== Sys2Proof/Machine/DiffAdd.lean ====
section
/-! DEFINITION. `DADD`, differential addition of the wired-in base point (spec/43_diff_add.md R67): its START and its EXEC
step. The relation of the operands that R68 describes is not checked. -/

namespace Sys2Proof.Machine

/-- The differential addition on captured operands (R67). The x output is multiplied by prevZ and the z output by prevX. -/
def diffAdd (x z prevX prevZ : FieldElt) : Ratio :=
  let xa := fmul (fsub x z) (fadd baseX baseZ)
  let xb := fmul (fadd x z) (fsub baseX baseZ)
  (fmul prevZ (fsq (fadd xa xb)), fmul prevX (fsq (fsub xa xb)))

/-- `pointAdd1(x, z, prevX, prevZ)` on operand values (R45, R67). -/
def pointAdd1 (x z prevX prevZ : Word) : Ratio :=
  diffAdd (reduceWord x) (reduceWord z) (reduceWord prevX) (reduceWord prevZ)

/-- `START DADD`: reads OPA, OPB, OPC and OPD, PHASE becomes EXEC (R43, R67). -/
def execDadd (s : State) : Outcome :=
  whenIdle s <|
    withOperand s .opa fun x =>
      withOperand s .opb fun z =>
        withOperand s .opc fun prevX =>
          withOperand s .opd fun prevZ =>
            .next (s.accept (.execDadd (reduceWord x) (reduceWord z) (reduceWord prevX) (reduceWord prevZ)))

/-- The EXEC step with OP = DADD: never an error (R67). -/
def daddStep (s : State) (x z prevX prevZ : FieldElt) : Outcome := .next (s.completeRatio (diffAdd x z prevX prevZ))

end Sys2Proof.Machine
end

