-- ==== Sys2Proof/Machine/Double.lean ====
section
/-! DEFINITION. `DBL`, projective point doubling (spec/42_point_double.md R63): its START and its EXEC step. -/

namespace Sys2Proof.Machine

/-- The doubling law on captured operands (R63): the middle term 4xz is formed as (x+z)² - (x-z)². -/
def double (x z : FieldElt) : Ratio :=
  let aa := fsq (fadd x z)
  let bb := fsq (fsub x z)
  let e := fsub aa bb
  let t := fmul a24p e
  let u := fadd bb t
  (fmul aa bb, fmul e u)

/-- `pointDouble(x, z)` on operand values (R45, R63). -/
def pointDouble (x z : Word) : Ratio := double (reduceWord x) (reduceWord z)

/-- `START DBL`: reads OPA and OPB, PHASE becomes EXEC (R43, R63). -/
def execDbl (s : State) : Outcome :=
  whenIdle s <|
    withOperand s .opa fun x =>
      withOperand s .opb fun z => .next (s.accept (.execDbl (reduceWord x) (reduceWord z)))

/-- The EXEC step with OP = DBL: never an error (R63). -/
def dblStep (s : State) (x z : FieldElt) : Outcome := .next (s.completeRatio (double x z))

end Sys2Proof.Machine
end

