-- ==== Sys2Proof/Machine/Ladder.lean ====
section
/-! DEFINITION. `MULT`, the Montgomery ladder (spec/44_ladder.md): its START, its ITER step, its FINAL step, and the pure
function they compute (R81). -/

namespace Sys2Proof.Machine

/-- `cswap(b, (p, q))`: both coordinates of a pair move together (R76). -/
def cswap (b : Bool) (p q : Ratio) : Ratio × Ratio := if b then (q, p) else (p, q)

/-- The combined double-and-add step on (possibly swapped) pairs: doubles `p`, adds `p` and `q` whose difference has affine
X-coordinate `x1`; answers the new even and odd pairs (R77, R79). -/
def ladderStep (x1 : FieldElt) (p q : Ratio) : Ratio × Ratio :=
  let a := fadd p.1 p.2
  let aa := fsq a
  let b := fsub p.1 p.2
  let bb := fsq b
  let e := fsub aa bb
  let c := fadd q.1 q.2
  let d := fsub q.1 q.2
  let da := fmul d a
  let cb := fmul c b
  ((fmul aa bb, fmul e (fadd aa (fmul a24m e))), (fsq (fadd da cb), fmul x1 (fsq (fsub da cb))))

/-- The scalar bit that the ITER step with `ITER = j` processes: bit 254 - j (R73). -/
def ladderBit (kl : BitVec 255) (j : Nat) : Bool := kl.getLsbD (254 - j)

/-- The working registers after one ITER step that processes the scalar bit `b`: swap by SWAP xor b, step, SWAP becomes b,
X1 and KL stay (R75, R78, R79). -/
def LadderRegs.iterate (r : LadderRegs) (b : Bool) : LadderRegs :=
  let pq := cswap (r.swap ^^ b) (r.x2, r.z2) (r.x3, r.z3)
  let next := ladderStep r.x1 pq.1 pq.2
  { x1 := r.x1, x2 := next.1.1, z2 := next.1.2, x3 := next.2.1, z3 := next.2.2, swap := b, kl := r.kl }

/-- The pair the FINAL step publishes: the even one after the final conditional swap (R80). -/
def LadderRegs.result (r : LadderRegs) : Ratio := (cswap r.swap (r.x2, r.z2) (r.x3, r.z3)).1

/-- The ladder's seed for a reduced X-coordinate and a captured scalar (R72). -/
def LadderRegs.seed (x : FieldElt) (kl : BitVec 255) : LadderRegs where
  x1 := x
  x2 := 1
  z2 := 0
  x3 := x
  z3 := 1
  swap := false
  kl := kl

/-- `START MULT`: reads OPA and K, seeds the ladder, PHASE becomes LOOP (R43, R71, R72). -/
def execMult (s : State) : Outcome :=
  whenIdle s <|
    withOperand s .opa fun x =>
      withOperand s .k fun n => .next (s.accept (.loop (LadderRegs.seed (reduceWord x) (low255 n))))

/-- The ITER step: one ladder iteration, ITER counted up, PHASE LOOP until the new ITER is 255, then FINAL (R79). -/
def iterStep (s : State) (r : LadderRegs) : Outcome :=
  if s.iter.toNat < curve.nbits then
    let r' := r.iterate (ladderBit r.kl s.iter.toNat)
    .next ((s.setIter (s.iter + 1)).setSeq (if s.iter.toNat + 1 = curve.nbits then .final r' else .loop r'))
  else .fault .loopPastLastBit

/-- The FINAL step: the last conditional swap and the ratio result (R80). -/
def finalStep (s : State) (r : LadderRegs) : Outcome := .next (s.completeRatio r.result)

/-- The trips of the pure function for bit indexes t - 1 down to 0, on (x2, z2), (x3, z3) and the swap flag (R81). -/
def pointMultLoop (x1 : FieldElt) (n : Nat) : Nat → Ratio → Ratio → Bool → Ratio × Ratio × Bool
  | 0, p, q, swap => (p, q, swap)
  | t + 1, p, q, swap =>
    let bit := n.testBit t
    let pq := cswap (swap ^^ bit) p q
    let next := ladderStep x1 pq.1 pq.2
    pointMultLoop x1 n t next.1 next.2 bit

/-- `pointMult(X, n)`: MULT as a pure function of the two operand values (R81). -/
def pointMult (x n : Word) : Ratio :=
  let out := pointMultLoop (reduceWord x) n.toNat curve.nbits (1, 0) (reduceWord x, 1) false
  (cswap out.2.2 out.1 out.2.1).1

end Sys2Proof.Machine
end

