-- ==== Sys2Proof/Machine/Dispatch.lean ====
section
/-! DEFINITION. The meaning of each command: what the event START(op) does (spec/30_encoding.md R43). The sequencer steps
that then run the call are Machine/Sequencer.lean's. -/

namespace Sys2Proof.Machine

def exec (i : Instr) (s : State) : Host.Outcome State Fault Refusal :=
  match i with
  | .mult => Sys2Proof.Machine.execMult s
  | .dbl => Sys2Proof.Machine.execDbl s
  | .dadd => Sys2Proof.Machine.execDadd s
  | .aff => Sys2Proof.Machine.execAff s

end Sys2Proof.Machine
end

