-- ==== Sys2Proof/Decode.lean ====
section
/-! DEFINITION. The command code (spec/30_encoding.md R41, R42). A command is the 2-bit code `op[1:0]`; all four codes
are assigned, so the decoder of a code is total. Where a platform carries the code in a wider word, the bits above bit 1
are the platform's and are not seen by the core (R41): the model's carrier is one byte (notes/assumptions/3.md). -/

namespace Sys2Proof

/-- Why bytes hold no command: the one way is that no carrier byte is there. No code is illegal (R42). -/
inductive DecodeReject where
  /-- The byte list is empty. -/
  | noCarrier
  deriving DecidableEq, Repr

/-- The command a 2-bit code selects (R42). -/
def decodeCode (code : BitVec 2) : Instr :=
  match code.toNat with
  | 0 => .mult
  | 1 => .dbl
  | 2 => .dadd
  | _ => .aff

/-- The code in a carrier byte: bits 1:0 (R41). -/
def carriedCode (b : Byte) : BitVec 2 := b.extractLsb' 0 2

/-- Reads one command from carrier bytes and answers the bytes that are left. -/
def decode : List Byte → Except DecodeReject (Instr × List Byte)
  | [] => .error .noCarrier
  | b :: rest => .ok (decodeCode (carriedCode b), rest)

/-- The command's code (R42, column `op`). -/
def encodeCode : Instr → BitVec 2
  | .mult => 0
  | .dbl => 1
  | .dadd => 2
  | .aff => 3

/-- The command in one carrier byte, the platform's bits zero. -/
def encode (i : Instr) : List Byte := [(encodeCode i).setWidth 8]

/-- The carrier of a table word: one byte, the bits above `nbits` zero. -/
def tableBytes (nbits w : Nat) : List Byte := [BitVec.ofNat 8 (w % 2 ^ nbits)]

/-- The command the decoder reads from the word `w` of `nbits` bits, numbered as spec/opcode_table.json numbers bits. -/
def decodeTableWord (nbits w : Nat) : Option Instr :=
  match decode (tableBytes nbits w) with
  | .ok (i, _) => some i
  | .error _ => none

end Sys2Proof
end

