-- ==== Sys2Proof/Machine/Sequencer.lean ====
section
/-! DEFINITION. The sequencer's turn (spec/10_state.md R18): exactly one step is enabled in each phase but IDLE, where the
core waits for the host and nothing changes (R113, R120). -/

namespace Sys2Proof.Machine

/-- The sequencer's step of the present phase (R18). -/
def seqStep (s : State) : Outcome :=
  match s.seq with
  | .idle => .next s
  | .loop r => iterStep s r
  | .final r => finalStep s r
  | .execDbl x z => dblStep s x z
  | .execDadd x z prevX prevZ => daddStep s x z prevX prevZ
  | .execAff x z => affStep s x z

/-- `n` sequencer steps with no host event between them. -/
def seqRun : Nat → State → Outcome
  | 0, s => .next s
  | n + 1, s =>
    match seqStep s with
    | .next t => seqRun n t
    | .fault f => .fault f
    | .refused r => .refused r

/-- The sequencer steps left until the call is over: 256 at the START of MULT, 1 for the others (R121). -/
def State.stepsLeft (s : State) : Nat :=
  match s.seq with
  | .idle => 0
  | .loop _ => curve.nbits - s.iter.toNat + 1
  | .final _ => 1
  | .execDbl _ _ => 1
  | .execDadd _ _ _ _ => 1
  | .execAff _ _ => 1

end Sys2Proof.Machine
end

