-- ==== Sys2Proof/Machine/HostLines.lean ====
section
/-! DEFINITION. The host's events other than START (spec/30_encoding.md R46; spec/70_reset_and_hazards.md R122), the host
notation's pseudo-instructions (R47), and where the next command stands. Each operation below is given the state with its
line already taken off the script, but for WAIT, which stays until DONE is read as 1. -/

namespace Sys2Proof.Machine

/-- `WR r, v`: the operand register takes the value, in any phase; a running call is not affected (R11, R28). The value is
the line's own or one the host noted at an earlier read (R46, R47). -/
def hostWrite (s : State) (r : OperandReg) (v : Source) : Outcome :=
  match v with
  | .lit w => .next (s.setOperand r w)
  | .noted back =>
    match s.seen[back]? with
    | some (_, w) => .next (s.setOperand r w)
    | none => .refused (.nothingNoted back)

/-- `RD r`: the host notes the value, the core is not changed; refused where there is no value (R28, R35). -/
def hostReadLine (s : State) (r : HostReg) : Outcome :=
  match s.hostRead r with
  | some v => .next (s.note r v)
  | none => .refused (.readNoValue r)

/-- `WAIT` at the head of the script, `rest` behind it: over when DONE reads 1, else the sequencer takes its turn and the
line stays (R46). One event of an unfinished `WAIT` is one turn (notes/assumptions/2.md, notes/assumptions/8.md). -/
def hostWait (s : State) (rest : List HostLine) : Outcome :=
  if s.done then .next (s.setScript rest) else seqStep s

/-- `CALL m` = `START m` ; `WAIT` (R47). -/
def callLines (i : Instr) : List HostLine := [.start (encodeCode i), .wait]

/-- `MOVR` = `RD RX -> a` ; `RD RZ -> b` ; `WR OPA, a` ; `WR OPB, b` (R47). -/
def movrLines : List HostLine := [.rd .rx, .rd .rz, .wr .opa (.noted 1), .wr .opb (.noted 0)]

/-- `MULTAFF` = `CALL MULT` ; `MOVR` ; `CALL AFF` (R47). -/
def multAffLines : List HostLine := callLines .mult ++ movrLines ++ callLines .aff

/-- The code a table word's carrier byte holds. -/
def tableCode (nbits w : Nat) : BitVec 2 :=
  match tableBytes nbits w with
  | [] => 0
  | b :: _ => carriedCode b

/-- The state with the table word's command as the host's next line, and with the operand registers it reads holding a
value (1 where they hold none), as R118 has the host do before a START. -/
def State.placeCommand (s : State) (nbits w : Nat) : State :=
  let code := tableCode nbits w
  let t := s.supply 1 (need (decodeCode code))
  t.setScript (.start code :: s.script)

end Sys2Proof.Machine
end

