-- ==== Sys2Proof/Machine/Step.lean ====
section
/-! DEFINITION. One step of the whole machine: one host event or one sequencer step, in the total order of
spec/20_memory.md R36. The script says which comes next: its first line, or, when the host has no line left, the sequencer.
A START line carries the 2-bit code, which is decoded and executed (spec/30_encoding.md R41 to R43). -/

namespace Sys2Proof.Machine

/-- One event of the machine. -/
def step (s : State) : Host.Outcome State Fault Refusal :=
  match s.script with
  | [] => seqStep s
  | .start code :: rest => exec (decodeCode code) (s.setScript rest)
  | .wr r v :: rest => hostWrite (s.setScript rest) r v
  | .rd r :: rest => hostReadLine (s.setScript rest) r
  | .wait :: rest => hostWait s rest
  | .reset :: rest => .next (s.setScript rest).resetCore
  | .tick :: rest => seqStep (s.setScript rest)

/-- The table word's command placed where `step` takes its next command from (notes/assumptions/4.md). -/
def State.withFetchWord (s : State) (nbits w : Nat) : State := s.placeCommand nbits w

end Sys2Proof.Machine
end

