-- ==== Sys2Proof/WellFormed.lean ====
section
/-! DEFINITION. Well-formedness. A command has no field that could be wrong: all four codes are assigned and there is no
operand to check (spec/30_encoding.md R41, R42). A host script is well-formed when no line writes a value noted at a read
the script has not made before it, counted from the last reads the host already holds (R46, R47). -/

namespace Sys2Proof

/-- Every command is well-formed (R42: "There is no illegal encoding"). -/
def Instr.wellFormed : Instr → Bool
  | .mult => true
  | .dbl => true
  | .dadd => true
  | .aff => true

namespace Machine

/-- A source names a value the host has: one of `noted` values, or its own. -/
def sourceWellFormed (noted : Nat) : Source → Bool
  | .lit _ => true
  | .noted back => back < noted

/-- A script names no value before it is read; `noted` is how many reads the host has made. -/
def scriptWellFormed : Nat → List HostLine → Bool
  | _, [] => true
  | noted, .wr _ v :: rest => sourceWellFormed noted v && scriptWellFormed noted rest
  | noted, .rd _ :: rest => scriptWellFormed (noted + 1) rest
  | noted, .start _ :: rest => scriptWellFormed noted rest
  | noted, .wait :: rest => scriptWellFormed noted rest
  | noted, .reset :: rest => scriptWellFormed noted rest
  | noted, .tick :: rest => scriptWellFormed noted rest

end Machine

end Sys2Proof
end

