-- ==== Sys2Proof/Safety.lean ====
section
/-! DEFINITION. What claims call a safe run, and the invariants of the machine (spec/10_state.md R13 to R18, R22;
spec/60_exceptions.md R102). -/

namespace Sys2Proof.Machine

/-- A field element is canonical: in [0, P) (R22). -/
abbrev Canonical (a : FieldElt) : Prop := a.toNat < P

/-- A result register holds no value or a canonical one (R13, R96). -/
abbrev CanonicalResult (v : Option Word) : Prop := ∀ w ∈ v, w.toNat < P

/-- The working registers of a MULT call hold canonical values (R22). -/
structure LadderRegs.Canon (r : LadderRegs) : Prop where
  x1 : Canonical r.x1
  x2 : Canonical r.x2
  z2 : Canonical r.z2
  x3 : Canonical r.x3
  z3 : Canonical r.z3

/-- What the sequencer holds agrees with ITER: LOOP has iterations left, FINAL has none, a command of one EXEC step counts
none, SWAP is the scalar bit of the iteration before (R75) and every working register is canonical (R17, R18, R22). In IDLE,
ITER is 0 or 255 (R17). -/
def State.SeqInv (s : State) : Prop :=
  match s.seq with
  | .idle => s.iter.toNat = 0 ∨ s.iter.toNat = curve.nbits
  | .loop r => s.iter.toNat < curve.nbits ∧ r.Canon ∧
      r.swap = (if s.iter.toNat = 0 then false else r.kl.getLsbD (curve.nbits - s.iter.toNat))
  | .final r => s.iter.toNat = curve.nbits ∧ r.Canon ∧ r.swap = r.kl.getLsbD 0
  | .execDbl x z => s.iter.toNat = 0 ∧ Canonical x ∧ Canonical z
  | .execDadd x z prevX prevZ => s.iter.toNat = 0 ∧ Canonical x ∧ Canonical z ∧ Canonical prevX ∧ Canonical prevZ
  | .execAff x z => s.iter.toNat = 0 ∧ Canonical x ∧ Canonical z

/-- The invariants of STATUS and the result registers (R13, R14, R102). -/
structure State.StatusInv (s : State) : Prop where
  /-- BUSY and DONE are never both 1. -/
  busy_done : s.busy = true → s.done = false
  /-- ERR ≠ 0 implies DONE = 1, RXV = 0 and RZV = 0. -/
  err_done : s.err ≠ .none → s.done = true ∧ s.rxv = false ∧ s.rzv = false
  /-- RXV = 1 implies DONE = 1 and ERR = 0. -/
  rxv_done : s.rxv = true → s.done = true ∧ s.err = .none
  /-- RZV = 1 implies RXV = 1. -/
  rzv_rxv : s.rzv = true → s.rxv = true
  /-- A call that completed without error left a result in RX. -/
  done_rxv : s.done = true → s.err = .none → s.rxv = true
  /-- RX holds a value exactly when RXV = 1. -/
  rxv_rx : s.rxv = s.rx.isSome
  /-- RZ holds a value exactly when RZV = 1. -/
  rzv_rz : s.rzv = s.rz.isSome
  /-- Only the codes 0 and 1 occur. -/
  err_code : s.err = .none ∨ s.err = .degenerateRatio

/-- The invariant of the machine. -/
structure State.Inv (s : State) : Prop where
  seq : s.SeqInv
  status : s.StatusInv
  rx : CanonicalResult s.rx
  rz : CanonicalResult s.rz

/-- What the host sees of a call, and the sequencer behind it: everything of the core but the operand registers. -/
def State.callView (s : State) : Option Word × Option Word × BitVec 8 × BitVec 8 × Sequencer :=
  (s.rx, s.rz, s.statusByte, s.iter, s.seq)

/-- The sequencer steps of one call: 255 ITER and 1 FINAL for MULT, 1 EXEC for the others (R42, R121). -/
def callSteps : Instr → Nat
  | .mult => 256
  | .dbl => 1
  | .dadd => 1
  | .aff => 1

/-- A line that leaves a running call alone but for giving the sequencer its turn: a write of the line's own value, a read
of STATUS or ITER, a START (ignored while busy), a turn (R28, R36). -/
def HostLine.quiet : HostLine → Bool
  | .wr _ (.lit _) => true
  | .wr _ (.noted _) => false
  | .start _ => true
  | .wait => false
  | .rd .status => true
  | .rd .iter => true
  | .rd .opa => false
  | .rd .opb => false
  | .rd .opc => false
  | .rd .opd => false
  | .rd .k => false
  | .rd .rx => false
  | .rd .rz => false
  | .reset => false
  | .tick => true

/-- `n` events of the machine, stopping at the first fault or refusal: the host's `Host.Core.run` of this machine, on the
model's own types. -/
def runSteps : Nat → State → Outcome
  | 0, s => .next s
  | n + 1, s =>
    match step s with
    | .next t => runSteps n t
    | .fault f => .fault f
    | .refused r => .refused r

/-- A state from which the machine takes `n` events without a fault or a refusal. -/
def State.SafeFor (s : State) (n : Nat) : Prop := ∃ t, runSteps n s = .next t

end Sys2Proof.Machine
end

