-- ==== Sys2Proof/Certificates/Slice0/Obligations.lean ====
section
/-! DEFINITION. The statements for the provers, from the numbered rules of spec/. `seqStep` is the sequencer's turn and
`exec i` the event START of the command i; a call is the START and the sequencer steps that follow it. -/

open Sys2Proof Sys2Proof.Machine

/-! ## Encoding (spec/30_encoding.md) -/

/-- The four words of spec/opcode_table.json decode to their commands, in 2 bits and in a carrier byte whatever the
platform holds above bit 1 (R41, R42). That the carrier is one byte is the model's choice (notes/assumptions/3.md). -/
def Obligations.TableWordsDecode : Prop :=
  decodeTableWord 8 0x0 = some .mult ∧ decodeTableWord 8 0x1 = some .dbl ∧
  decodeTableWord 8 0x2 = some .dadd ∧ decodeTableWord 8 0x3 = some .aff ∧
  decodeTableWord 2 0x3 = some .aff ∧ decodeTableWord 8 0xFD = some .dbl ∧ decodeTableWord 8 0x46 = some .dadd

/-- Decoding an encoded command gives it back and leaves the bytes behind it; a byte decodes to a command exactly when its
two low bits are that command's code; every code is some command's; no byte, no command (R41, R42). The code of a command is
the spec's; the one-byte carrier, where the code stands in it and the refusal of an empty list are the model's choice
(notes/assumptions/3.md). -/
def Obligations.DecodeInvertsEncode : Prop :=
  (∀ (i : Instr) (rest : List Byte), i.wellFormed = true → decode (encode i ++ rest) = .ok (i, rest)) ∧
  (∀ (b : Byte) (rest : List Byte) (i : Instr),
    decode (b :: rest) = .ok (i, rest) ↔ b.toNat % 4 = (encodeCode i).toNat) ∧
  (∀ code : BitVec 2, encodeCode (decodeCode code) = code) ∧
  decode [] = .error .noCarrier

/-! ## Constants (spec/00_scope.md) -/

/-- Both derived constants are exact quarters, and they differ by one (R3). -/
def Obligations.DerivedConstantsAreExact : Prop :=
  4 * curve.a24p = curve.a + 2 ∧ curve.a24p = 121666 ∧ 4 * curve.a24m + 2 = curve.a ∧ curve.a24m = 121665 ∧
  a24p ≠ a24m ∧ curve.baseX = 9 ∧ curve.baseZ = 1 ∧ curve.p = 2 ^ 255 - 19

/-! ## The step (spec/20_memory.md R36, spec/30_encoding.md R46) -/

/-- A START line's code is decoded and its command executed, the line taken off the script; a table word placed as the next
command runs as the command it decodes to, on the state with the operand registers it reads filled where they hold no value.
The first clause is R43 on the model's script (notes/assumptions/2.md); the placing of the second clause, with the value 1 it
fills in, is the model's choice (notes/assumptions/4.md). -/
def Obligations.StepRunsDecodedCommand : Prop :=
  (∀ (s : State) (code : BitVec 2) (rest : List HostLine),
    s.script = .start code :: rest → step s = exec (decodeCode code) (s.setScript rest)) ∧
  (∀ (s : State) (nbits w : Nat) (i : Instr),
    decodeTableWord nbits w = some i → step (s.withFetchWord nbits w) = exec i (s.supply 1 (need i)))

/-- Every table word placed at reset runs: its START is accepted as the first event (model's choice, log entry 4: the placing
fills the operand registers the command reads). -/
def Obligations.PlacedCommandRunsAtReset : Prop :=
  ∀ w, w < 4 → ∃ t, step (State.reset.withFetchWord 8 w) = .next t ∧ t.busy = true ∧ t.op = some (BitVec.ofNat 2 w)

/-- With no host line left, and at a `tick` line, the sequencer takes its turn: this schedule is the model's choice
(notes/assumptions/2.md). In IDLE the turn changes nothing (R18, R113). -/
def Obligations.SequencerTurns : Prop :=
  (∀ s : State, s.script = [] → step s = seqStep s) ∧
  (∀ (s : State) (rest : List HostLine), s.script = .tick :: rest → step s = seqStep (s.setScript rest)) ∧
  (∀ s : State, s.phase = .idle → seqStep s = .next s)

/-! ## START (spec/30_encoding.md R43) -/

/-- The event START of every command, whole: ignored while busy, refused where an operand register the command reads holds
`novalue`, else accepted with exactly the writes of R43; STATUS then reads 0x01. -/
def Obligations.StartEventOfEveryCommand : Prop :=
  (∀ (i : Instr) (s : State), s.phase ≠ .idle → exec i s = .next s) ∧
  (∀ (i : Instr) (s : State), s.phase = .idle → (∃ r ∈ need i, s.operand r = none) →
    ∃ r ∈ need i, s.operand r = none ∧ exec i s = .refused (.startNoValue r)) ∧
  (∀ (s : State) (x n : Word), s.phase = .idle → s.opa = some x → s.k = some n →
    exec .mult s = .next { s with
      rx := none, rz := none, done := false, rxv := false, rzv := false, err := .none, iter := 0,
      seq := .loop { x1 := reduce (x.toNat : Int), x2 := 1, z2 := 0, x3 := reduce (x.toNat : Int), z3 := 1, swap := false,
                     kl := BitVec.ofNat 255 n.toNat } }) ∧
  (∀ (s : State) (x z : Word), s.phase = .idle → s.opa = some x → s.opb = some z →
    exec .dbl s = .next { s with
      rx := none, rz := none, done := false, rxv := false, rzv := false, err := .none, iter := 0,
      seq := .execDbl (reduce (x.toNat : Int)) (reduce (z.toNat : Int)) }) ∧
  (∀ (s : State) (x z a b : Word),
    s.phase = .idle → s.opa = some x → s.opb = some z → s.opc = some a → s.opd = some b →
    exec .dadd s = .next { s with
      rx := none, rz := none, done := false, rxv := false, rzv := false, err := .none, iter := 0,
      seq := .execDadd (reduce (x.toNat : Int)) (reduce (z.toNat : Int)) (reduce (a.toNat : Int))
        (reduce (b.toNat : Int)) }) ∧
  (∀ (s : State) (x z : Word), s.phase = .idle → s.opa = some x → s.opb = some z →
    exec .aff s = .next { s with
      rx := none, rz := none, done := false, rxv := false, rzv := false, err := .none, iter := 0,
      seq := .execAff (reduce (x.toNat : Int)) (reduce (z.toNat : Int)) }) ∧
  (∀ (i : Instr) (s t : State), s.phase = .idle → exec i s = .next t →
    t.statusByte = 0x01 ∧ t.op = some (encodeCode i))

/-- The frame of START, for MULT, DBL, DADD and AFF: no operand register, no host line and no host note changes; while busy
nothing changes at all. There is no memory (R11, R30, R43). The host's lines and notes are the model's fields
(notes/assumptions/2.md). -/
def Obligations.StartFrame : Prop :=
  ∀ (i : Instr) (s t : State), exec i s = .next t →
    t.opa = s.opa ∧ t.opb = s.opb ∧ t.opc = s.opc ∧ t.opd = s.opd ∧ t.k = s.k ∧ t.script = s.script ∧ t.seen = s.seen ∧
    (s.busy = true → t = s)

/-- A START is accepted exactly when the core is idle and every operand register the command reads holds a value; the other
registers and everything else may hold anything (R118, R119). -/
def Obligations.StartAcceptedExactlyWhenReady : Prop :=
  ∀ (i : Instr) (s : State),
    (∃ t, exec i s = .next t ∧ t ≠ s ∧ t.busy = true) ↔ (s.phase = .idle ∧ ∀ r ∈ need i, ∃ v, s.operand r = some v)

/-! ## The calls (spec/41 to spec/44) -/

/-- DBL: the START is accepted and one EXEC step completes the call with the doubling law of R63 modulo P, ERR 0, ITER 0. -/
def Obligations.DblCallComputesDoublingLaw : Prop :=
  encodeCode .dbl = 1 ∧
  (∀ (s : State) (x z : Word), s.phase = .idle → s.opa = some x → s.opb = some z →
    ∃ t u, exec .dbl s = .next t ∧ seqStep t = .next u ∧
      u.rx = some (BitVec.ofInt 256
        ((((x.toNat : Int) + z.toNat) ^ 2 * ((x.toNat : Int) - z.toNat) ^ 2) % P)) ∧
      u.rz = some (BitVec.ofInt 256
        ((4 * x.toNat * z.toNat * (((x.toNat : Int) - z.toNat) ^ 2 + 121666 * (4 * x.toNat * z.toNat))) % P)) ∧
      u.statusByte = 0x0E ∧ u.err = .none ∧ u.iter = 0 ∧ u.phase = .idle) ∧
  pointDouble 9 1 = (0x1900, 0x9660720)

/-- DADD: the START is accepted and one EXEC step completes the call with the differential addition of R67 modulo P, ERR 0,
ITER 0; the operands' relation is not checked. -/
def Obligations.DaddCallComputesDifferentialAddition : Prop :=
  encodeCode .dadd = 2 ∧
  (∀ (s : State) (x z prevX prevZ : Word),
    s.phase = .idle → s.opa = some x → s.opb = some z → s.opc = some prevX → s.opd = some prevZ →
    let xa : Int := ((x.toNat : Int) - z.toNat) * (9 + 1)
    let xb : Int := ((x.toNat : Int) + z.toNat) * (9 - 1)
    ∃ t u, exec .dadd s = .next t ∧ seqStep t = .next u ∧
      u.rx = some (BitVec.ofInt 256 ((prevZ.toNat * (xa + xb) ^ 2) % P)) ∧
      u.rz = some (BitVec.ofInt 256 ((prevX.toNat * (xa - xb) ^ 2) % P)) ∧
      u.statusByte = 0x0E ∧ u.err = .none ∧ u.iter = 0 ∧ u.phase = .idle) ∧
  pointAdd1 6400 157681440 9 1 = (0x16112956bb61000, 0x3ee27bed76d439000) ∧
  pointAffine 0x16112956bb61000 0x3ee27bed76d439000 =
    .ok 0x1c12bc1a6d57abe645534d91c21bba64f8824e67621c0859c00a03affb713c12 ∧
  pointAffine (zext256 (pointMult 9 3).1) (zext256 (pointMult 9 3).2) =
    .ok 0x1c12bc1a6d57abe645534d91c21bba64f8824e67621c0859c00a03affb713c12

/-- AFF with z ≢ 0: the START is accepted and one EXEC step completes the call with the one w in [0, P) for which
w · z ≡ x modulo P; RZ has no value. With z ≡ 0 it completes with DEGENERATE_RATIO and no result, whatever x is (R60, R61). -/
def Obligations.AffCallRecoversOrRaises : Prop :=
  encodeCode .aff = 3 ∧
  (∀ (s : State) (x z : Word), s.phase = .idle → s.opa = some x → s.opb = some z → z.toNat % P ≠ 0 →
    ∃ t u w, exec .aff s = .next t ∧ seqStep t = .next u ∧ u.rx = some w ∧ w.toNat < P ∧
      w.toNat * z.toNat % P = x.toNat % P ∧
      u.rz = none ∧ u.statusByte = 0x06 ∧ u.err = .none ∧ u.iter = 0 ∧ u.phase = .idle) ∧
  (∀ (s : State) (x z : Word), s.phase = .idle → s.opa = some x → s.opb = some z → z.toNat % P = 0 →
    ∃ t u, exec .aff s = .next t ∧ seqStep t = .next u ∧ u.rx = none ∧ u.rz = none ∧ u.err = .degenerateRatio ∧
      u.statusByte = 0x12 ∧ u.iter = 0 ∧ u.phase = .idle) ∧
  pointAffine 18 2 = .ok 9

/-- A completion with error changes nothing but RX, RZ, the valid bits, ERR, DONE and PHASE, and the same command with the
same operands then fails in the same way, to the same state (R103, R106, R107). -/
def Obligations.FailedAffIsPreciseAndRepeats : Prop :=
  ∀ (s : State) (x z : Word), s.phase = .idle → s.opa = some x → s.opb = some z → z.toNat % P = 0 →
    ∃ t u, exec .aff s = .next t ∧
      seqStep t = .next u ∧
      u = { t with rx := none, rz := none, rxv := false, rzv := false, err := .degenerateRatio, done := true, seq := .idle } ∧
      u.statusByte = 0x12 ∧ u.iter = 0 ∧ u.busy = false ∧
      u.opa = s.opa ∧ u.opb = s.opb ∧ u.opc = s.opc ∧ u.opd = s.opd ∧ u.k = s.k ∧
      ∃ t', exec .aff u = .next t' ∧ t'.err = .none ∧ t'.done = false ∧ seqStep t' = .next u

/-- MULT: the START is accepted and exactly 256 sequencer steps later the call is complete with the ratio pointMult(X, n),
ERR 0 and ITER 255 (R71, R80, R81, R93). -/
def Obligations.MultCallComputesPointMult : Prop :=
  encodeCode .mult = 0 ∧
  (∀ (s : State) (x n : Word), s.phase = .idle → s.opa = some x → s.k = some n →
    ∃ t u, exec .mult s = .next t ∧ seqRun 256 t = .next u ∧
      u.rx = some (zext256 (pointMult x n).1) ∧ u.rz = some (zext256 (pointMult x n).2) ∧
      u.statusByte = 0x0E ∧ u.err = .none ∧ u.iter = 255 ∧ u.phase = .idle) ∧
  pointMult 9 1 = (0x2a2e2d148a47fa084000000000, 0x4afcc1eba07ff564000000000)

/-- One ITER step, by the formulas of R77 as integers modulo P: the bit 254 - ITER, the swap by SWAP xor that bit, the four
new accumulators computed from the swapped old ones, SWAP set to the bit, ITER counted up, FINAL after the 255th; X1, KL and
every other register stay, and so does what STATUS reads (R73, R75 to R79). -/
def Obligations.IterStepComputesCombinedStep : Prop :=
  ∀ (s : State) (r : LadderRegs), s.seq = .loop r → s.iter.toNat < 255 →
    let k := r.kl.getLsbD (254 - s.iter.toNat)
    let sw := r.swap ^^ k
    let x2 : Int := if sw then r.x3.toNat else r.x2.toNat
    let z2 : Int := if sw then r.z3.toNat else r.z2.toNat
    let x3 : Int := if sw then r.x2.toNat else r.x3.toNat
    let z3 : Int := if sw then r.z2.toNat else r.z3.toNat
    let aa := (x2 + z2) ^ 2
    let bb := (x2 - z2) ^ 2
    let e := aa - bb
    let da := (x3 - z3) * (x2 + z2)
    let cb := (x3 + z3) * (x2 - z2)
    ∃ r' : LadderRegs,
      seqStep s = .next { s with iter := BitVec.ofNat 8 (s.iter.toNat + 1),
                                 seq := if s.iter.toNat + 1 = 255 then .final r' else .loop r' } ∧
      (r'.x3.toNat : Int) = (da + cb) ^ 2 % P ∧ (r'.z3.toNat : Int) = r.x1.toNat * (da - cb) ^ 2 % P ∧
      (r'.x2.toNat : Int) = aa * bb % P ∧ (r'.z2.toNat : Int) = e * (aa + 121665 * e) % P ∧
      r'.swap = k ∧ r'.x1 = r.x1 ∧ r'.kl = r.kl ∧ (∀ t, seqStep s = .next t → t.statusByte = s.statusByte)

/-- The FINAL step: the conditional swap by SWAP, the even pair to RX and RZ, DONE, RXV, RZV set, ERR 0, PHASE IDLE, all else
kept; STATUS then reads 0x0E. Under the invariant ITER is 255 and SWAP is the scalar's bit 0 there (R80). -/
def Obligations.FinalStepPublishesRatio : Prop :=
  ∀ (s : State) (r : LadderRegs), s.seq = .final r →
    seqStep s = .next { s with
      rx := some (BitVec.ofNat 256 (if r.swap then r.x3.toNat else r.x2.toNat)),
      rz := some (BitVec.ofNat 256 (if r.swap then r.z3.toNat else r.z2.toNat)),
      done := true, rxv := true, rzv := true, err := .none, seq := .idle } ∧
    (∀ t, seqStep s = .next t → t.statusByte = 0x0E) ∧
    (s.Inv → s.iter = 255 ∧ r.swap = r.kl.getLsbD 0)

/-! ## Progress, counting, completion (spec/10_state.md, spec/60, spec/70) -/

/-- Every accepted command is running until its last sequencer step, 256 for MULT and 1 for the others, and complete after
it: no sequencer step of a call faults or refuses (R121). -/
def Obligations.EveryCallEndsAfterFixedSteps : Prop :=
  ∀ (i : Instr) (s t : State), s.phase = .idle → exec i s = .next t →
    (∀ j, j < callSteps i → ∃ v, seqRun j t = .next v ∧ v.busy = true ∧ v.done = false) ∧
    ∃ u, seqRun (callSteps i) t = .next u ∧ u.phase = .idle ∧ u.done = true

/-- ITER is written by an accepted START (0), by each ITER step (one more, without wrapping), by RESET (0) and by nothing else;
it counts the iterations of a running MULT call (R17, R93). The host lines of the third clause are the model's script
(notes/assumptions/2.md). -/
def Obligations.IterCountsIterations : Prop :=
  (∀ (i : Instr) (s t : State), s.phase = .idle → exec i s = .next t → t.iter = 0) ∧
  (∀ s t : State, s.Inv → seqStep s = .next t →
    t.iter.toNat = s.iter.toNat + (if s.phase = .loop then 1 else 0)) ∧
  (∀ (s t : State) (l : HostLine) (rest : List HostLine), s.script = l :: rest → step s = .next t →
    (∀ code, l ≠ .start code) → l ≠ .reset → l ≠ .tick → l ≠ .wait → t.iter = s.iter) ∧
  (∀ (s t : State) (j : Nat), s.phase = .idle → exec .mult s = .next t → j ≤ 255 →
    ∃ v, seqRun j t = .next v ∧ v.iter.toNat = j ∧ v.statusByte = 0x01)

/-- A sequencer step leaves the operand registers, the host's lines and its notes alone. While the call goes on it leaves
RX, RZ, DONE, RXV, RZV and ERR alone too; the step that ends it sets DONE and either publishes a result with RXV and ERR 0, or
leaves no value and no valid bit with ERR not 0 (R11, R36, R105). The host's lines and notes are the model's fields
(notes/assumptions/2.md). -/
def Obligations.CompletionIsAtomic : Prop :=
  ∀ s t : State, seqStep s = .next t →
    t.opa = s.opa ∧ t.opb = s.opb ∧ t.opc = s.opc ∧ t.opd = s.opd ∧ t.k = s.k ∧ t.script = s.script ∧ t.seen = s.seen ∧
    ((t.rx = s.rx ∧ t.rz = s.rz ∧ t.done = s.done ∧ t.rxv = s.rxv ∧ t.rzv = s.rzv ∧ t.err = s.err ∧ t.busy = s.busy) ∨
     (s.busy = true ∧ t.busy = false ∧ t.done = true ∧ t.iter = s.iter ∧
      ((t.err = .none ∧ t.rxv = true ∧ t.rx.isSome = true ∧ t.rzv = t.rz.isSome) ∨
       (t.err ≠ .none ∧ t.rxv = false ∧ t.rzv = false ∧ t.rx = none ∧ t.rz = none))))

/-- Which error code a call can complete with: 0 for MULT, DBL and DADD, 0 or 1 for AFF (R102). -/
def Obligations.ErrorCodesByCommand : Prop :=
  ∀ (i : Instr) (s t u : State), s.phase = .idle → exec i s = .next t → seqRun (callSteps i) t = .next u →
    match i with
    | .mult => u.err = .none
    | .dbl => u.err = .none
    | .dadd => u.err = .none
    | .aff => u.err = .none ∨ u.err = .degenerateRatio

/-- The command code and the operand values at START alone decide RX, RZ, STATUS and ITER at completion: two machines, idle,
whatever else they hold, that agree on the registers the command reads end the call alike, however each host interleaves
writes, reads of STATUS and ITER and further STARTs with the sequencer's turns. It is a part of R92, for these lines only
(CallResultIsTheSameUnderAnyHost takes the others); the `tick` lines that give the sequencer its turns and the count of events
are the model's choice (notes/assumptions/2.md). -/
def Obligations.CallResultDependsOnlyOnOperands : Prop :=
  ∀ (i : Instr) (s s' : State) (pre pre' rest rest' : List HostLine),
    s.phase = .idle → s'.phase = .idle →
    (∀ r ∈ need i, ∃ v, s.operand r = some v ∧ s'.operand r = some v) →
    (∀ l ∈ pre, l.quiet = true) → (∀ l ∈ pre', l.quiet = true) →
    pre.count .tick + 1 = callSteps i → pre'.count .tick + 1 = callSteps i →
    s.script = .start (encodeCode i) :: pre ++ .tick :: rest →
    s'.script = .start (encodeCode i) :: pre' ++ .tick :: rest' →
    ∃ u u', runSteps (pre.length + 2) s = .next u ∧ runSteps (pre'.length + 2) s' = .next u' ∧
      u.callView = u'.callView ∧ u.done = true ∧ u.script = rest ∧ u'.script = rest'

/-! ## Host events (spec/10_state.md R28, spec/70_reset_and_hazards.md R122) -/

/-- A write replaces one operand register whole and changes nothing else, in any phase; twice is as once (R11, R12, R35). The
script and the notes are the model's fields (notes/assumptions/2.md). -/
def Obligations.WriteReplacesOneRegister : Prop :=
  ∀ (s : State) (r : OperandReg) (v : Word) (rest : List HostLine), s.script = .wr r (.lit v) :: rest →
    ∃ t, step s = .next t ∧ t.operand r = some v ∧ (∀ q, q ≠ r → t.operand q = s.operand q) ∧
      t.callView = s.callView ∧ t.done = s.done ∧ t.rxv = s.rxv ∧ t.rzv = s.rzv ∧ t.err = s.err ∧
      t.script = rest ∧ t.seen = s.seen ∧ t.setOperand r v = t

/-- A read returns the register's value, STATUS and ITER in every phase, RX and RZ while their valid bit is 1, and changes
nothing but the host's own notes; where there is no value it is refused (R28, R35). The notes, with STATUS and ITER in them as
256-bit words, are the model's choice (notes/assumptions/2.md). -/
def Obligations.ReadReturnsValueOrIsRefused : Prop :=
  ∀ (s : State) (r : HostReg) (rest : List HostLine), s.script = .rd r :: rest →
    let value : Option Word :=
      match r with
      | .opa => s.opa
      | .opb => s.opb
      | .opc => s.opc
      | .opd => s.opd
      | .k => s.k
      | .rx => if s.rxv then s.rx else none
      | .rz => if s.rzv then s.rz else none
      | .status => some (BitVec.ofNat 256 (s.busy.toNat + 2 * s.done.toNat + 4 * s.rxv.toNat + 8 * s.rzv.toNat +
          16 * s.err.code.toNat))
      | .iter => some (BitVec.ofNat 256 s.iter.toNat)
    (∀ v, value = some v → step s = .next { s with script := rest, seen := (r, v) :: s.seen }) ∧
    (value = none → step s = .refused (.readNoValue r))

/-- RESET in any state: idle, STATUS 0x00, ITER 0, every data register `novalue`, no working register holding a value, a
running call abandoned without a result or an error (R29, R115, R116). That the host's remaining lines and its notes stay
(`t.script = rest`, `t.seen = s.seen`) is the model's choice (notes/assumptions/11.md). -/
def Obligations.ResetEventRestoresResetState : Prop :=
  ∀ (s : State) (rest : List HostLine), s.script = .reset :: rest →
    ∃ t, step s = .next t ∧ t.phase = .idle ∧ t.statusByte = 0x00 ∧ t.iter = 0 ∧ (∀ r, t.operand r = none) ∧ t.rx = none ∧
      t.rz = none ∧ t.done = false ∧ t.err = .none ∧ t.op = none ∧ t.callView = State.reset.callView ∧ t.script = rest ∧
      t.seen = s.seen

/-- The state after reset is the table of R29. -/
def Obligations.ResetStateIsTheTable : Prop :=
  State.reset.phase = .idle ∧ State.reset.phase.code = 0 ∧ State.reset.statusByte = 0x00 ∧ State.reset.iter = 0 ∧
  (∀ r, State.reset.operand r = none) ∧ State.reset.rx = none ∧ State.reset.rz = none ∧ State.reset.op = none ∧
  State.reset.seq = .idle

/-- WAIT goes on to the next line exactly when DONE reads 1, and in a running call it ends (R46, R121). That an unfinished WAIT
is one turn of the sequencer an event, so that it takes the call's remaining steps and one event more, is the model's schedule
(notes/assumptions/2.md); that on an idle core with DONE 0 it stays for ever is the model's reading (notes/assumptions/8.md). -/
def Obligations.WaitEndsAtCompletion : Prop :=
  (∀ (s : State) (rest : List HostLine), s.script = .wait :: rest → s.done = true → step s = .next (s.setScript rest)) ∧
  (∀ (s : State) (rest : List HostLine), s.script = .wait :: rest → s.done = false → step s = seqStep s) ∧
  (∀ (s : State) (rest : List HostLine), s.Inv → s.busy = true → s.script = .wait :: rest →
    ∃ u, runSteps (s.stepsLeft + 1) s = .next u ∧ u.script = rest ∧ u.done = true ∧ u.phase = .idle)

/-- MULTAFF as the host notation expands it, from an idle core whose OPA and K hold values: the machine runs all its lines and
ends with the affine X-coordinate of pointMult(X, n) in RX, or with the error AFF raises on that ratio (R47, R60, R81). That
MOVR writes values noted by the host and that the run counts 265 events are the model's choices (notes/assumptions/12.md,
notes/assumptions/2.md). -/
def Obligations.MultAffPipelineRecovers : Prop :=
  ∀ (s : State) (x n : Word) (rest : List HostLine),
    s.phase = .idle → s.opa = some x → s.k = some n → s.script = multAffLines ++ rest →
    ∃ u, runSteps 265 s = .next u ∧ u.script = rest ∧ u.phase = .idle ∧ u.done = true ∧ u.rz = none ∧
      u.opa = some (zext256 (pointMult x n).1) ∧ u.opb = some (zext256 (pointMult x n).2) ∧ u.k = some n ∧
      match pointAffine (zext256 (pointMult x n).1) (zext256 (pointMult x n).2) with
      | .ok v => u.rx = some (zext256 v) ∧ u.err = .none
      | .error e => u.rx = none ∧ u.err = e

/-! ## Invariants of every step -/

/-- The invariant holds just after reset (R29). -/
def Obligations.InvariantAtReset : Prop := State.reset.Inv

/-- Every step keeps the invariant: PHASE, ITER and SWAP agree, the working and result registers are canonical, and STATUS is
consistent (R13, R14, R17, R18, R22, R75). -/
def Obligations.StepKeepsInvariant : Prop := ∀ s t : State, s.Inv → step s = .next t → t.Inv

/-- Under the invariant STATUS reads one of the five reachable values of R15, and never the codes 2 and 3. -/
def Obligations.StatusValuesReachable : Prop :=
  ∀ s : State, s.Inv → s.statusByte ∈ [0x00, 0x01, 0x0E, 0x06, 0x12] ∧ s.err ≠ .inversionOfZero ∧ s.err ≠ .invalidArgument

/-- Under the invariant no step faults, and the sequencer's turn always answers a next state (R97, R121). -/
def Obligations.NoStepFaults : Prop :=
  ∀ s : State, s.Inv → (∀ f, step s ≠ .fault f) ∧ ∃ t, seqStep s = .next t

/-- A step of a well-formed script is refused exactly for the three moves of R23: a START that reads a register holding
`novalue`, a read of RX or RZ with its valid bit 0, a read of an operand register never written. What a well-formed script is,
is the model's choice (notes/assumptions/12.md). -/
def Obligations.RefusalsAreNovalueMoves : Prop :=
  ∀ s : State, s.Inv → scriptWellFormed s.seen.length s.script = true →
    ((∃ r, step s = .refused r) ↔
      (∃ code rest, s.script = .start code :: rest ∧ s.phase = .idle ∧ ∃ r ∈ need (decodeCode code), s.operand r = none) ∨
      (∃ rest, s.script = .rd .rx :: rest ∧ s.rxv = false) ∨ (∃ rest, s.script = .rd .rz :: rest ∧ s.rzv = false) ∨
      (∃ rest, (s.script = .rd .opa :: rest ∧ s.opa = none) ∨ (s.script = .rd .opb :: rest ∧ s.opb = none) ∨
        (s.script = .rd .opc :: rest ∧ s.opc = none) ∨ (s.script = .rd .opd :: rest ∧ s.opd = none) ∨
        (s.script = .rd .k :: rest ∧ s.k = none)))

/-- A well-formed script stays well-formed: no line ever names a value the host has not read. The whole statement is about the
model's choice of notes (notes/assumptions/12.md, notes/assumptions/2.md), by which it expresses MOVR of R47. -/
def Obligations.ScriptStaysWellFormed : Prop :=
  ∀ s t : State, scriptWellFormed s.seen.length s.script = true → step s = .next t →
    scriptWellFormed t.seen.length t.script = true

/-- What the commands write to RX and RZ is canonical, bit 255 is 0, the test for zero modulo P is a plain comparison, and fed
back as an operand it is captured unchanged (R96). -/
def Obligations.ResultsAreCanonical : Prop :=
  ∀ (s t : State) (w : Word), s.Inv → seqStep s = .next t → (t.rx = some w ∨ t.rz = some w) →
    w.toNat < P ∧ w.getLsbD 255 = false ∧ (w.toNat % P = 0 ↔ w = 0) ∧ (reduceWord w).toNat = w.toNat

/-! ## Field arithmetic (spec/40_field_interface.md) -/

/-- `reduce` answers the one representative in [0, P), for every integer (R50). -/
def Obligations.ReduceIsCanonicalRepresentative : Prop :=
  (∀ v : Int, (reduce v).toNat < P ∧ (P : Int) ∣ v - (reduce v).toNat ∧
    ∀ r : FieldElt, r.toNat < P → (P : Int) ∣ v - r.toNat → r = reduce v) ∧
  reduce P = 0 ∧ reduce (P + 9) = 9 ∧ reduce (2 ^ 255) = 19 ∧ reduce (2 ^ 256 - 1) = 37 ∧ (reduce (-1)).toNat = P - 1

/-- `inverseOf` answers the one canonical inverse for every v ≢ 0, and nothing for v ≡ 0 (R52, R53). -/
def Obligations.InverseContract : Prop :=
  (∀ v : Int, v % P ≠ 0 → ∃ w : FieldElt, inverseOf v = some w ∧ w.toNat < P ∧ v * w.toNat % P = 1 ∧
    ∀ w' : FieldElt, w'.toNat < P → v * w'.toNat % P = 1 → w' = w) ∧
  (∀ v : Int, v % P = 0 → inverseOf v = none) ∧
  inverseOf 1 = some 1 ∧ (inverseOf 2).map BitVec.toNat = some ((P + 1) / 2) ∧
  (inverseOf (P - 1)).map BitVec.toNat = some (P - 1)

/-- Reducing earlier never changes a later reduced value (R57). -/
def Obligations.EarlyReductionIsHarmless : Prop :=
  ∀ u v : Int,
    reduce (u * v) = reduce (((reduce u).toNat : Int) * (reduce v).toNat) ∧
    reduce (u + v) = reduce (((reduce u).toNat : Int) + (reduce v).toNat) ∧
    reduce (u - v) = reduce (((reduce u).toNat : Int) - (reduce v).toNat)

/-- The laws of R58, on canonical values. -/
def Obligations.FieldLaws : Prop :=
  ∀ a b c : FieldElt, Canonical a → Canonical b → Canonical c →
    fadd a b = fadd b a ∧ fmul a b = fmul b a ∧
    fadd (fadd a b) c = fadd a (fadd b c) ∧ fmul (fmul a b) c = fmul a (fmul b c) ∧
    fmul a (fadd b c) = fadd (fmul a b) (fmul a c) ∧ fmul a (fsub b c) = fsub (fmul a b) (fmul a c) ∧
    fadd a 0 = a ∧ fmul a 1 = a ∧ fsub a a = 0 ∧ (fmul a b = 0 ↔ a = 0 ∨ b = 0) ∧
    (a ≠ 0 → ∃ w, inverseOf a.toNat = some w ∧ fmul a w = 1) ∧
    fsq (fsub a b) = fsq (fsub b a) ∧
    fsub (fsq (fadd a b)) (fsq (fsub a b)) = fmul 4 (fmul a b)

/-! ## Properties of the commands (spec/42 to spec/45) -/

/-- Doubling a ratio with z ≡ 0 gives (x⁴, 0); (1, 0) is a fixed point; the output is (0, 0) exactly when the input is (0, 0)
modulo P (R64). -/
def Obligations.DoublingInfinity : Prop :=
  (∀ x z : Word, z.toNat % P = 0 → pointDouble x z = (reduce ((x.toNat : Int) ^ 4), 0)) ∧
  pointDouble 1 0 = (1, 0) ∧
  (∀ x z : Word, pointDouble x z = (0, 0) ↔ x.toNat % P = 0 ∧ z.toNat % P = 0)

/-- DBL and the ladder's doubling half compute the same pair (R66). -/
def Obligations.DoubleEqualsLadderDoublingHalf : Prop :=
  ∀ (x1 x z : FieldElt) (q : Ratio), (ladderStep x1 (x, z) q).1 = double x z

/-- DADD is the ladder's addition half with (x2, z2) the base point, (x3, z3) the current point and prevX for x1, its x
multiplied by prevZ (R70). -/
def Obligations.DiffAddIsLadderAdditionHalf : Prop :=
  ∀ x z prevX prevZ : FieldElt,
    diffAdd x z prevX prevZ =
      (fmul prevZ (ladderStep prevX (baseX, baseZ) (x, z)).2.1, (ladderStep prevX (baseX, baseZ) (x, z)).2.2)

/-- Another representative of an operand ratio gives another representative of the same output ratio: DBL scales by λ⁴, DADD
by λ² and by μ, AFF not at all (R62, R65, R69, R95). -/
def Obligations.RepresentationIndependence : Prop :=
  ∀ x z a b l m : FieldElt, Canonical x → Canonical z → Canonical a → Canonical b → Canonical l → Canonical m →
    l ≠ 0 → m ≠ 0 →
    double (fmul l x) (fmul l z) =
      (fmul (fsq (fsq l)) (double x z).1, fmul (fsq (fsq l)) (double x z).2) ∧
    diffAdd (fmul l x) (fmul l z) a b = (fmul (fsq l) (diffAdd x z a b).1, fmul (fsq l) (diffAdd x z a b).2) ∧
    diffAdd x z (fmul m a) (fmul m b) = (fmul m (diffAdd x z a b).1, fmul m (diffAdd x z a b).2) ∧
    affine (fmul l x) (fmul l z) = affine x z ∧ fsq (fsq l) ≠ 0 ∧ fsq l ≠ 0

/-- Two ratios with z ≢ 0 have the same affine X-coordinate exactly when their cross products are equal; two commands that
compute the same point, DBL of (9, 1) and MULT of 9 by 2, return different pairs (R94). -/
def Obligations.CrossMultiplicationDecidesEquality : Prop :=
  (∀ x1 z1 x2 z2 : FieldElt, Canonical x1 → Canonical z1 → Canonical x2 → Canonical z2 → z1 ≠ 0 → z2 ≠ 0 →
    (fmul x1 z2 = fmul x2 z1 ↔ affine x1 z1 = affine x2 z2) ∧ ∃ v, affine x1 z1 = .ok v) ∧
  pointDouble 9 1 = (0x1900, 0x9660720) ∧ pointMult 9 2 ≠ pointDouble 9 1 ∧
  affine (pointMult 9 2).1 (pointMult 9 2).2 = affine (pointDouble 9 1).1 (pointDouble 9 1).2

/-- MULT reads its operands modulo P and modulo 2^255 only: no clamping, no validation, bit 255 ignored (R83). -/
def Obligations.MultReadsOperandsModulo : Prop :=
  ∀ x x' n n' : Word, x.toNat % P = x'.toNat % P → n.toNat % 2 ^ 255 = n'.toNat % 2 ^ 255 →
    pointMult x n = pointMult x' n'

/-- A scalar whose low 255 bits are 0 gives (1, 0) for every X; an X ≡ 0 gives (0, 0) for every other scalar (R86). -/
def Obligations.MultDegenerateInputs : Prop :=
  (∀ x n : Word, n.toNat % 2 ^ 255 = 0 → pointMult x n = (1, 0)) ∧
  (∀ x n : Word, x.toNat % P = 0 → n.toNat % 2 ^ 255 ≠ 0 → pointMult x n = (0, 0))

/-- The closed form of R86 for the scalar 1: (2³⁸·X²⁰, 2³⁸·X¹⁹) modulo P. -/
def Obligations.MultByOneClosedForm : Prop :=
  ∀ x : Word, pointMult x 1 = (reduce (2 ^ 38 * (x.toNat : Int) ^ 20), reduce (2 ^ 38 * (x.toNat : Int) ^ 19))

/-- Property 1, identity: the ladder with scalar 1 recovers to X itself; for X ≡ 0 it gives (0, 0) and recovery raises
DEGENERATE_RATIO (R87). -/
def Obligations.MultByOneRecoversX : Prop :=
  (∀ x : Word, x.toNat % P ≠ 0 →
    pointAffine (zext256 (pointMult x 1).1) (zext256 (pointMult x 1).2) = .ok (reduceWord x)) ∧
  (∀ x : Word, x.toNat % P = 0 → pointMult x 1 = (0, 0) ∧
    pointAffine (zext256 (pointMult x 1).1) (zext256 (pointMult x 1).2) = .error .degenerateRatio)

/-- Property 4, the known answer: pointMult(9, 1) recovers exactly to 9 (R90). -/
def Obligations.KnownAnswerBasePoint : Prop :=
  pointMult 9 1 = (0x2a2e2d148a47fa084000000000, 0x4afcc1eba07ff564000000000) ∧
  pointAffine (zext256 (pointMult 9 1).1) (zext256 (pointMult 9 1).2) = .ok 9

/-- Property 2, doubling consistency: recovering the double of (x, z) equals recovering the ladder with scalar 2 at the affine
X of (x, z), and where one is degenerate so is the other (R88). -/
def Obligations.DoublingAgreesWithLadder : Prop :=
  ∀ x z : Word, z.toNat % P ≠ 0 → ∃ xa, pointAffine x z = .ok xa ∧
    let d := pointDouble x z
    let m := pointMult (zext256 xa) 2
    (d.2 ≠ 0 → m.2 ≠ 0 ∧ ∃ v, affine d.1 d.2 = .ok v ∧ affine m.1 m.2 = .ok v) ∧
    (d.2 = 0 → affine d.1 d.2 = .error .degenerateRatio ∧ affine m.1 m.2 = .error .degenerateRatio)

/-- Property 3, the instance of R89: scaling 9 by 3, recovering, and scaling by 5 recovers to what scaling 9 by 15 recovers
to. -/
def Obligations.ThreeThenFiveIsFifteen : Prop :=
  ∃ three, pointAffine (zext256 (pointMult 9 3).1) (zext256 (pointMult 9 3).2) = .ok three ∧
    pointAffine (zext256 (pointMult (zext256 three) 5).1) (zext256 (pointMult (zext256 three) 5).2) =
      .ok 0x451d44beaaaf59cf740de459a82ac101302f8fca7e0433471e0ff10454a4fa5e ∧
    pointAffine (zext256 (pointMult 9 15).1) (zext256 (pointMult 9 15).2) =
      .ok 0x451d44beaaaf59cf740de459a82ac101302f8fca7e0433471e0ff10454a4fa5e

/-- R92 for every host: whatever lines follow the START but RESET, reads of operand registers, WAIT and writes of noted values
among them, the first state of the run in which the core is no longer busy shows the same RX, RZ, STATUS and ITER on any two
idle machines that agree on the registers the command reads; DONE is 1 there. How lines and turns follow each other is the
model's script (notes/assumptions/2.md). -/
def Obligations.CallResultIsTheSameUnderAnyHost : Prop :=
  ∀ (i : Instr) (s s' u u' : State) (rest rest' : List HostLine) (n n' : Nat),
    s.phase = .idle → s'.phase = .idle →
    (∀ r ∈ need i, ∃ v, s.operand r = some v ∧ s'.operand r = some v) →
    s.script = .start (encodeCode i) :: rest → s'.script = .start (encodeCode i) :: rest' →
    .reset ∉ rest → .reset ∉ rest' →
    0 < n → runSteps n s = .next u → u.busy = false →
    (∀ j v, 0 < j → j < n → runSteps j s = .next v → v.busy = true) →
    0 < n' → runSteps n' s' = .next u' → u'.busy = false →
    (∀ j v, 0 < j → j < n' → runSteps j s' = .next v → v.busy = true) →
    u.callView = u'.callView ∧ u.done = true
end

