-- ==== Sys2Proof/Laws/Prime.lean ====
section
/-! SUPPORT. P is prime (spec/40_field_interface.md R49), by Lucas certificates, and what `powMod` computes. -/

namespace Sys2Proof.Machine

theorem P_eq : P = 57896044618658097711785492504343953926634992332820282019728792003956564819949 := by decide +kernel

/-- Repeated squaring computes the power: one lemma for every use of `powMod`. -/
theorem powMod_eq (m fuel b e : Nat) (h : e < 2 ^ fuel) : powMod m fuel b e = b ^ e % m := by
  induction fuel generalizing b e with
  | zero => simp [powMod, show e = 0 by simpa using h]
  | succ f ih =>
    have hhalf : b ^ e = (b * b) ^ (e / 2) * b ^ (e % 2) := by
      rw [← pow_two, ← pow_mul, ← pow_add, Nat.div_add_mod]
    have hrec := ih (b * b % m) (e / 2) (by rw [pow_succ] at h; omega)
    rw [powMod, hrec, ← Nat.pow_mod]
    rcases Nat.mod_two_eq_zero_or_one e with h2 | h2 <;> simp [hhalf, h2, Nat.mul_mod]

/-- A Lucas certificate: `fs` lists the primes of n - 1 with repetition, and `a` has order n - 1. -/
theorem prime_of_certificate (n a : Nat) (fs : List Nat) (hn : 1 < n ∧ n < 2 ^ 256) (hfs : ∀ q ∈ fs, q.Prime)
    (hprod : fs.prod = n - 1) (hone : powMod n 256 a (n - 1) = 1)
    (hne : ∀ q ∈ fs, powMod n 256 a ((n - 1) / q) ≠ 1) : n.Prime := by
  have hpow (e : Nat) (he : e ≤ n - 1) : (a : ZMod n) ^ e = 1 ↔ powMod n 256 a e = 1 := by
    rw [powMod_eq _ _ _ _ (by omega), ← Nat.cast_pow, ← Nat.cast_one (R := ZMod n), ZMod.natCast_eq_natCast_iff',
      Nat.mod_eq_of_lt hn.1]
  refine lucas_primality n a ((hpow _ le_rfl).2 hone) fun q hq hdvd h => ?_
  obtain ⟨r, hr, hqr⟩ := (Prime.dvd_prod_iff hq.prime).1 (hprod ▸ hdvd)
  obtain rfl := (Nat.prime_dvd_prime_iff_eq hq (hfs r hr)).1 hqr
  exact hne q hr ((hpow _ (Nat.div_le_self _ _)).1 h)

theorem prime_31757755568855353 : Nat.Prime 31757755568855353 :=
  prime_of_certificate _ 10 [2, 2, 2, 3, 31, 107, 223, 4153, 430751] (by norm_num) (by norm_num) (by norm_num)
    (by decide +kernel) (by decide +kernel)

theorem prime_2773320623 : Nat.Prime 2773320623 :=
  prime_of_certificate _ 5 [2, 2437, 569003] (by norm_num) (by norm_num) (by norm_num)
    (by decide +kernel) (by decide +kernel)

theorem prime_72106336199 : Nat.Prime 72106336199 :=
  prime_of_certificate _ 7 [2, 13, 2773320623] (by norm_num)
    (by simp only [List.forall_mem_cons]
        exact ⟨by norm_num, by norm_num, prime_2773320623, by simp⟩)
    (by norm_num) (by decide +kernel) (by decide +kernel)

theorem prime_1919519569386763 : Nat.Prime 1919519569386763 :=
  prime_of_certificate _ 2 [2, 3, 7, 19, 47, 47, 127, 8574133] (by norm_num) (by norm_num) (by norm_num)
    (by decide +kernel) (by decide +kernel)

theorem prime_75445702479781427272750846543864801 : Nat.Prime 75445702479781427272750846543864801 :=
  prime_of_certificate _ 7 [2, 2, 2, 2, 2, 3, 3, 5, 5, 75707, 72106336199, 1919519569386763] (by norm_num)
    (by simp only [List.forall_mem_cons]
        exact ⟨by norm_num, by norm_num, by norm_num, by norm_num, by norm_num, by norm_num, by norm_num, by norm_num,
          by norm_num, by norm_num, prime_72106336199, prime_1919519569386763, by simp⟩)
    (by norm_num) (by decide +kernel) (by decide +kernel)

theorem prime_large_factor :
    Nat.Prime 74058212732561358302231226437062788676166966415465897661863160754340907 :=
  prime_of_certificate _ 2
    [2, 3, 353, 57467, 132049, 1923133, 31757755568855353, 75445702479781427272750846543864801] (by norm_num)
    (by simp only [List.forall_mem_cons]
        exact ⟨by norm_num, by norm_num, by norm_num, by norm_num, by norm_num, by norm_num, prime_31757755568855353,
          prime_75445702479781427272750846543864801, by simp⟩)
    (by norm_num) (by decide +kernel) (by decide +kernel)

/-- The field prime is prime (R49). -/
theorem P_prime : P.Prime := by
  rw [P_eq]
  exact prime_of_certificate _ 2
    [2, 2, 3, 65147, 74058212732561358302231226437062788676166966415465897661863160754340907] (by norm_num)
    (by simp only [List.forall_mem_cons]
        exact ⟨by norm_num, by norm_num, by norm_num, by norm_num, prime_large_factor, by simp⟩)
    (by norm_num) (by decide +kernel) (by decide +kernel)

end Sys2Proof.Machine
end

