-- ==== Sys2Proof/Laws/Field.lean ====
section
/-! SUPPORT. The field operations as arithmetic modulo P: every result is canonical, and its class modulo P is the sum,
difference, product or square of the classes (spec/40_field_interface.md R50, R55, R57). Two canonical values of one class
are equal, so an equation between results is an equation in `ZMod P`. -/

namespace Sys2Proof.Machine

theorem P_pos : 0 < P := by rw [P_eq]; norm_num

theorem P_lt : P < 2 ^ 255 := by rw [P_eq]; norm_num

/-- The class of a field element modulo P. -/
def residue (a : FieldElt) : ZMod P := (a.toNat : ZMod P)

/-- What `reduce` is, as an integer (R50). -/
theorem reduce_toNat (v : Int) : ((reduce v).toNat : Int) = v % (P : Int) := by
  have hpos : (0 : Int) < P := by exact_mod_cast P_pos
  have h0 := Int.emod_nonneg v hpos.ne'
  have h1 := Int.emod_lt_of_pos v hpos
  have h2 : (v % (P : Int)).toNat < 2 ^ 255 := lt_trans (by omega) P_lt
  rw [reduce, BitVec.toNat_ofNat, Nat.mod_eq_of_lt h2, Int.toNat_of_nonneg h0]

theorem reduce_canonical (v : Int) : Canonical (reduce v) := by
  have hpos : (0 : Int) < P := by exact_mod_cast P_pos
  have h1 := Int.emod_lt_of_pos v hpos
  rw [← reduce_toNat] at h1
  exact_mod_cast h1

theorem residue_reduce (v : Int) : residue (reduce v) = (v : ZMod P) := by
  have h : ((reduce v).toNat : ZMod P) = (((reduce v).toNat : Int) : ZMod P) := by push_cast; rfl
  rw [residue, h, reduce_toNat, ZMod.intCast_mod]

theorem reduce_of_canonical {a : FieldElt} (h : Canonical a) : reduce (a.toNat : Int) = a := by
  apply BitVec.eq_of_toNat_eq
  have := reduce_toNat (a.toNat : Int)
  rw [Int.emod_eq_of_lt (by omega) (by exact_mod_cast h)] at this
  exact_mod_cast this

/-- Canonical values of one class are equal. -/
theorem eq_of_residue {a b : FieldElt} (ha : Canonical a) (hb : Canonical b) (h : residue a = residue b) : a = b := by
  apply BitVec.eq_of_toNat_eq
  have := (ZMod.natCast_eq_natCast_iff' _ _ _).1 h
  rwa [Nat.mod_eq_of_lt ha, Nat.mod_eq_of_lt hb] at this

/-- A canonical value is the integer 0 exactly when its class is 0 (R96). -/
theorem residue_eq_zero {a : FieldElt} (ha : Canonical a) : residue a = 0 ↔ a = 0 := by
  constructor
  · intro h
    exact eq_of_residue ha (by simpa [Canonical] using P_pos) (by simpa [residue] using h)
  · rintro rfl
    simp [residue]

theorem fadd_canonical (a b : FieldElt) : Canonical (fadd a b) := reduce_canonical _
theorem fsub_canonical (a b : FieldElt) : Canonical (fsub a b) := reduce_canonical _
theorem fmul_canonical (a b : FieldElt) : Canonical (fmul a b) := reduce_canonical _
theorem fsq_canonical (a : FieldElt) : Canonical (fsq a) := reduce_canonical _
theorem reduceWord_canonical (w : Word) : Canonical (reduceWord w) := reduce_canonical _

theorem residue_fadd (a b : FieldElt) : residue (fadd a b) = residue a + residue b := by rw [fadd, residue_reduce]; push_cast; rfl
theorem residue_fsub (a b : FieldElt) : residue (fsub a b) = residue a - residue b := by rw [fsub, residue_reduce]; push_cast; rfl
theorem residue_fmul (a b : FieldElt) : residue (fmul a b) = residue a * residue b := by rw [fmul, residue_reduce]; push_cast; rfl
theorem residue_fsq (a : FieldElt) : residue (fsq a) = residue a ^ 2 := by rw [fsq, square, residue_reduce]; push_cast; rw [residue, pow_two]
theorem residue_reduceWord (w : Word) : residue (reduceWord w) = (w.toNat : ZMod P) := by rw [reduceWord, residue_reduce]; push_cast; rfl

theorem residue_zero : residue 0 = 0 := by simp [residue]
theorem residue_one : residue 1 = 1 := by simp [residue]
theorem residue_a24p : residue a24p = 121666 := by
  rw [residue, show a24p.toNat = 121666 by decide +kernel]; norm_num
theorem residue_a24m : residue a24m = 121665 := by
  rw [residue, show a24m.toNat = 121665 by decide +kernel]; norm_num
theorem residue_baseX : residue baseX = 9 := by
  rw [residue, show baseX.toNat = 9 by decide +kernel]; norm_num
theorem residue_baseZ : residue baseZ = 1 := by
  rw [residue, show baseZ.toNat = 1 by decide +kernel]; norm_num

theorem zext256_toNat (a : FieldElt) : (zext256 a).toNat = a.toNat := by
  rw [zext256, BitVec.toNat_setWidth, Nat.mod_eq_of_lt]
  exact lt_of_lt_of_le a.isLt (Nat.pow_le_pow_right (by norm_num) (by norm_num))

/-- A result fed back as an operand is captured unchanged (R96). -/
theorem reduceWord_zext256 {a : FieldElt} (h : Canonical a) : reduceWord (zext256 a) = a := by
  rw [reduceWord, zext256_toNat, reduce_of_canonical h]

end Sys2Proof.Machine
end

