-- ==== Sys2Proof/Laws/Commands.lean ====
section
/-! SUPPORT. What the commands' field computations are modulo P: one lemma per output, which a proof cites instead of
unfolding the computation (spec/42_point_double.md R63, spec/43_diff_add.md R67, spec/44_ladder.md R77). -/

namespace Sys2Proof.Machine

theorem double_canonical (x z : FieldElt) : Canonical (double x z).1 ∧ Canonical (double x z).2 :=
  ⟨fmul_canonical _ _, fmul_canonical _ _⟩

theorem residue_double_fst (x z : FieldElt) :
    residue (double x z).1 = (residue x + residue z) ^ 2 * (residue x - residue z) ^ 2 := by
  simp only [double, residue_fmul, residue_fsq, residue_fadd, residue_fsub]

theorem residue_double_snd (x z : FieldElt) :
    residue (double x z).2 =
      4 * residue x * residue z * ((residue x - residue z) ^ 2 + 121666 * (4 * residue x * residue z)) := by
  simp only [double, residue_fmul, residue_fsq, residue_fadd, residue_fsub, residue_a24p]
  ring

theorem diffAdd_canonical (x z a b : FieldElt) : Canonical (diffAdd x z a b).1 ∧ Canonical (diffAdd x z a b).2 :=
  ⟨fmul_canonical _ _, fmul_canonical _ _⟩

theorem residue_diffAdd_fst (x z a b : FieldElt) :
    residue (diffAdd x z a b).1 =
      residue b * ((residue x - residue z) * 10 + (residue x + residue z) * 8) ^ 2 := by
  simp only [diffAdd, residue_fmul, residue_fsq, residue_fadd, residue_fsub, residue_baseX, residue_baseZ]
  norm_num

theorem residue_diffAdd_snd (x z a b : FieldElt) :
    residue (diffAdd x z a b).2 =
      residue a * ((residue x - residue z) * 10 - (residue x + residue z) * 8) ^ 2 := by
  simp only [diffAdd, residue_fmul, residue_fsq, residue_fadd, residue_fsub, residue_baseX, residue_baseZ]
  norm_num

theorem ladderStep_canonical (x1 : FieldElt) (p q : Ratio) :
    Canonical (ladderStep x1 p q).1.1 ∧ Canonical (ladderStep x1 p q).1.2 ∧ Canonical (ladderStep x1 p q).2.1 ∧
      Canonical (ladderStep x1 p q).2.2 :=
  ⟨fmul_canonical _ _, fmul_canonical _ _, fsq_canonical _, fmul_canonical _ _⟩

theorem residue_ladderStep_x2 (x1 : FieldElt) (p q : Ratio) :
    residue (ladderStep x1 p q).1.1 = (residue p.1 + residue p.2) ^ 2 * (residue p.1 - residue p.2) ^ 2 := by
  simp only [ladderStep, residue_fmul, residue_fsq, residue_fadd, residue_fsub]

theorem residue_ladderStep_z2 (x1 : FieldElt) (p q : Ratio) :
    residue (ladderStep x1 p q).1.2 =
      ((residue p.1 + residue p.2) ^ 2 - (residue p.1 - residue p.2) ^ 2) *
        ((residue p.1 + residue p.2) ^ 2 +
          121665 * ((residue p.1 + residue p.2) ^ 2 - (residue p.1 - residue p.2) ^ 2)) := by
  simp only [ladderStep, residue_fmul, residue_fsq, residue_fadd, residue_fsub, residue_a24m]

theorem residue_ladderStep_x3 (x1 : FieldElt) (p q : Ratio) :
    residue (ladderStep x1 p q).2.1 =
      ((residue q.1 - residue q.2) * (residue p.1 + residue p.2) +
        (residue q.1 + residue q.2) * (residue p.1 - residue p.2)) ^ 2 := by
  simp only [ladderStep, residue_fmul, residue_fsq, residue_fadd, residue_fsub]

theorem residue_ladderStep_z3 (x1 : FieldElt) (p q : Ratio) :
    residue (ladderStep x1 p q).2.2 =
      residue x1 * ((residue q.1 - residue q.2) * (residue p.1 + residue p.2) -
        (residue q.1 + residue q.2) * (residue p.1 - residue p.2)) ^ 2 := by
  simp only [ladderStep, residue_fmul, residue_fsq, residue_fadd, residue_fsub]

/-- An iteration keeps the working registers canonical (R22). -/
theorem LadderRegs.iterate_canon {r : LadderRegs} (h : r.Canon) (b : Bool) : (r.iterate b).Canon := by
  obtain ⟨h1, h2, h3, h4⟩ := ladderStep_canonical r.x1 (cswap (r.swap ^^ b) (r.x2, r.z2) (r.x3, r.z3)).1
    (cswap (r.swap ^^ b) (r.x2, r.z2) (r.x3, r.z3)).2
  exact ⟨h.x1, h1, h2, h3, h4⟩

theorem cswap_true (p q : Ratio) : cswap true p q = (q, p) := rfl

theorem cswap_false (p q : Ratio) : cswap false p q = (p, q) := rfl

end Sys2Proof.Machine
end

