-- ==== Sys2Proof/Laws/State.lean ====
section
/-! SUPPORT. What each update of the state leaves in each field: one lemma per field per update, so that no later proof
unfolds a record update. -/

namespace Sys2Proof.Machine

@[simp] theorem State.setSeq_opa (s : State) (q : Sequencer) : (s.setSeq q).opa = s.opa := rfl
@[simp] theorem State.setSeq_opb (s : State) (q : Sequencer) : (s.setSeq q).opb = s.opb := rfl
@[simp] theorem State.setSeq_opc (s : State) (q : Sequencer) : (s.setSeq q).opc = s.opc := rfl
@[simp] theorem State.setSeq_opd (s : State) (q : Sequencer) : (s.setSeq q).opd = s.opd := rfl
@[simp] theorem State.setSeq_k (s : State) (q : Sequencer) : (s.setSeq q).k = s.k := rfl
@[simp] theorem State.setSeq_rx (s : State) (q : Sequencer) : (s.setSeq q).rx = s.rx := rfl
@[simp] theorem State.setSeq_rz (s : State) (q : Sequencer) : (s.setSeq q).rz = s.rz := rfl
@[simp] theorem State.setSeq_done (s : State) (q : Sequencer) : (s.setSeq q).done = s.done := rfl
@[simp] theorem State.setSeq_rxv (s : State) (q : Sequencer) : (s.setSeq q).rxv = s.rxv := rfl
@[simp] theorem State.setSeq_rzv (s : State) (q : Sequencer) : (s.setSeq q).rzv = s.rzv := rfl
@[simp] theorem State.setSeq_err (s : State) (q : Sequencer) : (s.setSeq q).err = s.err := rfl
@[simp] theorem State.setSeq_iter (s : State) (q : Sequencer) : (s.setSeq q).iter = s.iter := rfl
@[simp] theorem State.setSeq_seq (s : State) (q : Sequencer) : (s.setSeq q).seq = q := rfl
@[simp] theorem State.setSeq_script (s : State) (q : Sequencer) : (s.setSeq q).script = s.script := rfl
@[simp] theorem State.setSeq_seen (s : State) (q : Sequencer) : (s.setSeq q).seen = s.seen := rfl

@[simp] theorem State.setIter_opa (s : State) (n : BitVec 8) : (s.setIter n).opa = s.opa := rfl
@[simp] theorem State.setIter_opb (s : State) (n : BitVec 8) : (s.setIter n).opb = s.opb := rfl
@[simp] theorem State.setIter_opc (s : State) (n : BitVec 8) : (s.setIter n).opc = s.opc := rfl
@[simp] theorem State.setIter_opd (s : State) (n : BitVec 8) : (s.setIter n).opd = s.opd := rfl
@[simp] theorem State.setIter_k (s : State) (n : BitVec 8) : (s.setIter n).k = s.k := rfl
@[simp] theorem State.setIter_rx (s : State) (n : BitVec 8) : (s.setIter n).rx = s.rx := rfl
@[simp] theorem State.setIter_rz (s : State) (n : BitVec 8) : (s.setIter n).rz = s.rz := rfl
@[simp] theorem State.setIter_done (s : State) (n : BitVec 8) : (s.setIter n).done = s.done := rfl
@[simp] theorem State.setIter_rxv (s : State) (n : BitVec 8) : (s.setIter n).rxv = s.rxv := rfl
@[simp] theorem State.setIter_rzv (s : State) (n : BitVec 8) : (s.setIter n).rzv = s.rzv := rfl
@[simp] theorem State.setIter_err (s : State) (n : BitVec 8) : (s.setIter n).err = s.err := rfl
@[simp] theorem State.setIter_iter (s : State) (n : BitVec 8) : (s.setIter n).iter = n := rfl
@[simp] theorem State.setIter_seq (s : State) (n : BitVec 8) : (s.setIter n).seq = s.seq := rfl
@[simp] theorem State.setIter_script (s : State) (n : BitVec 8) : (s.setIter n).script = s.script := rfl
@[simp] theorem State.setIter_seen (s : State) (n : BitVec 8) : (s.setIter n).seen = s.seen := rfl

@[simp] theorem State.setScript_opa (s : State) (ls : List HostLine) : (s.setScript ls).opa = s.opa := rfl
@[simp] theorem State.setScript_opb (s : State) (ls : List HostLine) : (s.setScript ls).opb = s.opb := rfl
@[simp] theorem State.setScript_opc (s : State) (ls : List HostLine) : (s.setScript ls).opc = s.opc := rfl
@[simp] theorem State.setScript_opd (s : State) (ls : List HostLine) : (s.setScript ls).opd = s.opd := rfl
@[simp] theorem State.setScript_k (s : State) (ls : List HostLine) : (s.setScript ls).k = s.k := rfl
@[simp] theorem State.setScript_rx (s : State) (ls : List HostLine) : (s.setScript ls).rx = s.rx := rfl
@[simp] theorem State.setScript_rz (s : State) (ls : List HostLine) : (s.setScript ls).rz = s.rz := rfl
@[simp] theorem State.setScript_done (s : State) (ls : List HostLine) : (s.setScript ls).done = s.done := rfl
@[simp] theorem State.setScript_rxv (s : State) (ls : List HostLine) : (s.setScript ls).rxv = s.rxv := rfl
@[simp] theorem State.setScript_rzv (s : State) (ls : List HostLine) : (s.setScript ls).rzv = s.rzv := rfl
@[simp] theorem State.setScript_err (s : State) (ls : List HostLine) : (s.setScript ls).err = s.err := rfl
@[simp] theorem State.setScript_iter (s : State) (ls : List HostLine) : (s.setScript ls).iter = s.iter := rfl
@[simp] theorem State.setScript_seq (s : State) (ls : List HostLine) : (s.setScript ls).seq = s.seq := rfl
@[simp] theorem State.setScript_script (s : State) (ls : List HostLine) : (s.setScript ls).script = ls := rfl
@[simp] theorem State.setScript_seen (s : State) (ls : List HostLine) : (s.setScript ls).seen = s.seen := rfl

@[simp] theorem State.note_opa (s : State) (r : HostReg) (v : Word) : (s.note r v).opa = s.opa := rfl
@[simp] theorem State.note_opb (s : State) (r : HostReg) (v : Word) : (s.note r v).opb = s.opb := rfl
@[simp] theorem State.note_opc (s : State) (r : HostReg) (v : Word) : (s.note r v).opc = s.opc := rfl
@[simp] theorem State.note_opd (s : State) (r : HostReg) (v : Word) : (s.note r v).opd = s.opd := rfl
@[simp] theorem State.note_k (s : State) (r : HostReg) (v : Word) : (s.note r v).k = s.k := rfl
@[simp] theorem State.note_rx (s : State) (r : HostReg) (v : Word) : (s.note r v).rx = s.rx := rfl
@[simp] theorem State.note_rz (s : State) (r : HostReg) (v : Word) : (s.note r v).rz = s.rz := rfl
@[simp] theorem State.note_done (s : State) (r : HostReg) (v : Word) : (s.note r v).done = s.done := rfl
@[simp] theorem State.note_rxv (s : State) (r : HostReg) (v : Word) : (s.note r v).rxv = s.rxv := rfl
@[simp] theorem State.note_rzv (s : State) (r : HostReg) (v : Word) : (s.note r v).rzv = s.rzv := rfl
@[simp] theorem State.note_err (s : State) (r : HostReg) (v : Word) : (s.note r v).err = s.err := rfl
@[simp] theorem State.note_iter (s : State) (r : HostReg) (v : Word) : (s.note r v).iter = s.iter := rfl
@[simp] theorem State.note_seq (s : State) (r : HostReg) (v : Word) : (s.note r v).seq = s.seq := rfl
@[simp] theorem State.note_script (s : State) (r : HostReg) (v : Word) : (s.note r v).script = s.script := rfl
@[simp] theorem State.note_seen (s : State) (r : HostReg) (v : Word) : (s.note r v).seen = (r, v) :: s.seen := rfl

@[simp] theorem State.accept_opa (s : State) (q : Sequencer) : (s.accept q).opa = s.opa := rfl
@[simp] theorem State.accept_opb (s : State) (q : Sequencer) : (s.accept q).opb = s.opb := rfl
@[simp] theorem State.accept_opc (s : State) (q : Sequencer) : (s.accept q).opc = s.opc := rfl
@[simp] theorem State.accept_opd (s : State) (q : Sequencer) : (s.accept q).opd = s.opd := rfl
@[simp] theorem State.accept_k (s : State) (q : Sequencer) : (s.accept q).k = s.k := rfl
@[simp] theorem State.accept_rx (s : State) (q : Sequencer) : (s.accept q).rx = none := rfl
@[simp] theorem State.accept_rz (s : State) (q : Sequencer) : (s.accept q).rz = none := rfl
@[simp] theorem State.accept_done (s : State) (q : Sequencer) : (s.accept q).done = false := rfl
@[simp] theorem State.accept_rxv (s : State) (q : Sequencer) : (s.accept q).rxv = false := rfl
@[simp] theorem State.accept_rzv (s : State) (q : Sequencer) : (s.accept q).rzv = false := rfl
@[simp] theorem State.accept_err (s : State) (q : Sequencer) : (s.accept q).err = .none := rfl
@[simp] theorem State.accept_iter (s : State) (q : Sequencer) : (s.accept q).iter = 0 := rfl
@[simp] theorem State.accept_seq (s : State) (q : Sequencer) : (s.accept q).seq = q := rfl
@[simp] theorem State.accept_script (s : State) (q : Sequencer) : (s.accept q).script = s.script := rfl
@[simp] theorem State.accept_seen (s : State) (q : Sequencer) : (s.accept q).seen = s.seen := rfl

@[simp] theorem State.completeRatio_opa (s : State) (p : Ratio) : (s.completeRatio p).opa = s.opa := rfl
@[simp] theorem State.completeRatio_opb (s : State) (p : Ratio) : (s.completeRatio p).opb = s.opb := rfl
@[simp] theorem State.completeRatio_opc (s : State) (p : Ratio) : (s.completeRatio p).opc = s.opc := rfl
@[simp] theorem State.completeRatio_opd (s : State) (p : Ratio) : (s.completeRatio p).opd = s.opd := rfl
@[simp] theorem State.completeRatio_k (s : State) (p : Ratio) : (s.completeRatio p).k = s.k := rfl
@[simp] theorem State.completeRatio_rx (s : State) (p : Ratio) : (s.completeRatio p).rx = some (zext256 p.1) := rfl
@[simp] theorem State.completeRatio_rz (s : State) (p : Ratio) : (s.completeRatio p).rz = some (zext256 p.2) := rfl
@[simp] theorem State.completeRatio_done (s : State) (p : Ratio) : (s.completeRatio p).done = true := rfl
@[simp] theorem State.completeRatio_rxv (s : State) (p : Ratio) : (s.completeRatio p).rxv = true := rfl
@[simp] theorem State.completeRatio_rzv (s : State) (p : Ratio) : (s.completeRatio p).rzv = true := rfl
@[simp] theorem State.completeRatio_err (s : State) (p : Ratio) : (s.completeRatio p).err = .none := rfl
@[simp] theorem State.completeRatio_iter (s : State) (p : Ratio) : (s.completeRatio p).iter = s.iter := rfl
@[simp] theorem State.completeRatio_seq (s : State) (p : Ratio) : (s.completeRatio p).seq = .idle := rfl
@[simp] theorem State.completeRatio_script (s : State) (p : Ratio) : (s.completeRatio p).script = s.script := rfl
@[simp] theorem State.completeRatio_seen (s : State) (p : Ratio) : (s.completeRatio p).seen = s.seen := rfl

@[simp] theorem State.completeAffine_opa (s : State) (x : FieldElt) : (s.completeAffine x).opa = s.opa := rfl
@[simp] theorem State.completeAffine_opb (s : State) (x : FieldElt) : (s.completeAffine x).opb = s.opb := rfl
@[simp] theorem State.completeAffine_opc (s : State) (x : FieldElt) : (s.completeAffine x).opc = s.opc := rfl
@[simp] theorem State.completeAffine_opd (s : State) (x : FieldElt) : (s.completeAffine x).opd = s.opd := rfl
@[simp] theorem State.completeAffine_k (s : State) (x : FieldElt) : (s.completeAffine x).k = s.k := rfl
@[simp] theorem State.completeAffine_rx (s : State) (x : FieldElt) : (s.completeAffine x).rx = some (zext256 x) := rfl
@[simp] theorem State.completeAffine_rz (s : State) (x : FieldElt) : (s.completeAffine x).rz = none := rfl
@[simp] theorem State.completeAffine_done (s : State) (x : FieldElt) : (s.completeAffine x).done = true := rfl
@[simp] theorem State.completeAffine_rxv (s : State) (x : FieldElt) : (s.completeAffine x).rxv = true := rfl
@[simp] theorem State.completeAffine_rzv (s : State) (x : FieldElt) : (s.completeAffine x).rzv = false := rfl
@[simp] theorem State.completeAffine_err (s : State) (x : FieldElt) : (s.completeAffine x).err = .none := rfl
@[simp] theorem State.completeAffine_iter (s : State) (x : FieldElt) : (s.completeAffine x).iter = s.iter := rfl
@[simp] theorem State.completeAffine_seq (s : State) (x : FieldElt) : (s.completeAffine x).seq = .idle := rfl
@[simp] theorem State.completeAffine_script (s : State) (x : FieldElt) : (s.completeAffine x).script = s.script := rfl
@[simp] theorem State.completeAffine_seen (s : State) (x : FieldElt) : (s.completeAffine x).seen = s.seen := rfl

@[simp] theorem State.raise_opa (s : State) (e : ErrCode) : (s.raise e).opa = s.opa := rfl
@[simp] theorem State.raise_opb (s : State) (e : ErrCode) : (s.raise e).opb = s.opb := rfl
@[simp] theorem State.raise_opc (s : State) (e : ErrCode) : (s.raise e).opc = s.opc := rfl
@[simp] theorem State.raise_opd (s : State) (e : ErrCode) : (s.raise e).opd = s.opd := rfl
@[simp] theorem State.raise_k (s : State) (e : ErrCode) : (s.raise e).k = s.k := rfl
@[simp] theorem State.raise_rx (s : State) (e : ErrCode) : (s.raise e).rx = none := rfl
@[simp] theorem State.raise_rz (s : State) (e : ErrCode) : (s.raise e).rz = none := rfl
@[simp] theorem State.raise_done (s : State) (e : ErrCode) : (s.raise e).done = true := rfl
@[simp] theorem State.raise_rxv (s : State) (e : ErrCode) : (s.raise e).rxv = false := rfl
@[simp] theorem State.raise_rzv (s : State) (e : ErrCode) : (s.raise e).rzv = false := rfl
@[simp] theorem State.raise_err (s : State) (e : ErrCode) : (s.raise e).err = e := rfl
@[simp] theorem State.raise_iter (s : State) (e : ErrCode) : (s.raise e).iter = s.iter := rfl
@[simp] theorem State.raise_seq (s : State) (e : ErrCode) : (s.raise e).seq = .idle := rfl
@[simp] theorem State.raise_script (s : State) (e : ErrCode) : (s.raise e).script = s.script := rfl
@[simp] theorem State.raise_seen (s : State) (e : ErrCode) : (s.raise e).seen = s.seen := rfl

@[simp] theorem State.resetCore_opa (s : State) : (s.resetCore).opa = none := rfl
@[simp] theorem State.resetCore_opb (s : State) : (s.resetCore).opb = none := rfl
@[simp] theorem State.resetCore_opc (s : State) : (s.resetCore).opc = none := rfl
@[simp] theorem State.resetCore_opd (s : State) : (s.resetCore).opd = none := rfl
@[simp] theorem State.resetCore_k (s : State) : (s.resetCore).k = none := rfl
@[simp] theorem State.resetCore_rx (s : State) : (s.resetCore).rx = none := rfl
@[simp] theorem State.resetCore_rz (s : State) : (s.resetCore).rz = none := rfl
@[simp] theorem State.resetCore_done (s : State) : (s.resetCore).done = false := rfl
@[simp] theorem State.resetCore_rxv (s : State) : (s.resetCore).rxv = false := rfl
@[simp] theorem State.resetCore_rzv (s : State) : (s.resetCore).rzv = false := rfl
@[simp] theorem State.resetCore_err (s : State) : (s.resetCore).err = .none := rfl
@[simp] theorem State.resetCore_iter (s : State) : (s.resetCore).iter = 0 := rfl
@[simp] theorem State.resetCore_seq (s : State) : (s.resetCore).seq = .idle := rfl
@[simp] theorem State.resetCore_script (s : State) : (s.resetCore).script = s.script := rfl
@[simp] theorem State.resetCore_seen (s : State) : (s.resetCore).seen = s.seen := rfl

@[simp] theorem State.setOperand_rx (s : State) (r : OperandReg) (v : Word) : (s.setOperand r v).rx = s.rx := by
  cases r <;> rfl
@[simp] theorem State.setOperand_rz (s : State) (r : OperandReg) (v : Word) : (s.setOperand r v).rz = s.rz := by
  cases r <;> rfl
@[simp] theorem State.setOperand_done (s : State) (r : OperandReg) (v : Word) : (s.setOperand r v).done = s.done := by
  cases r <;> rfl
@[simp] theorem State.setOperand_rxv (s : State) (r : OperandReg) (v : Word) : (s.setOperand r v).rxv = s.rxv := by
  cases r <;> rfl
@[simp] theorem State.setOperand_rzv (s : State) (r : OperandReg) (v : Word) : (s.setOperand r v).rzv = s.rzv := by
  cases r <;> rfl
@[simp] theorem State.setOperand_err (s : State) (r : OperandReg) (v : Word) : (s.setOperand r v).err = s.err := by
  cases r <;> rfl
@[simp] theorem State.setOperand_iter (s : State) (r : OperandReg) (v : Word) : (s.setOperand r v).iter = s.iter := by
  cases r <;> rfl
@[simp] theorem State.setOperand_seq (s : State) (r : OperandReg) (v : Word) : (s.setOperand r v).seq = s.seq := by
  cases r <;> rfl
@[simp] theorem State.setOperand_script (s : State) (r : OperandReg) (v : Word) : (s.setOperand r v).script = s.script := by
  cases r <;> rfl
@[simp] theorem State.setOperand_seen (s : State) (r : OperandReg) (v : Word) : (s.setOperand r v).seen = s.seen := by
  cases r <;> rfl

/-- A read of an operand register after a write of one (R11, R12). -/
@[simp] theorem State.operand_setOperand (s : State) (r q : OperandReg) (v : Word) :
    (s.setOperand r v).operand q = if q = r then some v else s.operand q := by
  cases r <;> cases q <;> rfl

@[simp] theorem State.operand_setSeq (s : State) (q : Sequencer) (r : OperandReg) : (s.setSeq q).operand r = s.operand r := by
  cases r <;> rfl
@[simp] theorem State.operand_setIter (s : State) (n : BitVec 8) (r : OperandReg) : (s.setIter n).operand r = s.operand r := by
  cases r <;> rfl
@[simp] theorem State.operand_setScript (s : State) (ls : List HostLine) (r : OperandReg) : (s.setScript ls).operand r = s.operand r := by
  cases r <;> rfl
@[simp] theorem State.operand_note (s : State) (r : HostReg) (v : Word) (q : OperandReg) : (s.note r v).operand q = s.operand q := by
  cases q <;> rfl
@[simp] theorem State.operand_accept (s : State) (q : Sequencer) (r : OperandReg) : (s.accept q).operand r = s.operand r := by
  cases r <;> rfl
@[simp] theorem State.operand_completeRatio (s : State) (p : Ratio) (r : OperandReg) : (s.completeRatio p).operand r = s.operand r := by
  cases r <;> rfl
@[simp] theorem State.operand_completeAffine (s : State) (x : FieldElt) (r : OperandReg) : (s.completeAffine x).operand r = s.operand r := by
  cases r <;> rfl
@[simp] theorem State.operand_raise (s : State) (e : ErrCode) (r : OperandReg) : (s.raise e).operand r = s.operand r := by
  cases r <;> rfl

/-- Two states are equal when their operand registers and every other field are. -/
theorem State.ext_operands {s t : State} (hop : ∀ r, s.operand r = t.operand r) (hrx : s.rx = t.rx) (hrz : s.rz = t.rz)
    (hdone : s.done = t.done) (hrxv : s.rxv = t.rxv) (hrzv : s.rzv = t.rzv) (herr : s.err = t.err)
    (hiter : s.iter = t.iter) (hseq : s.seq = t.seq) (hscript : s.script = t.script) (hseen : s.seen = t.seen) :
    s = t := by
  have h1 := hop .opa
  have h2 := hop .opb
  have h3 := hop .opc
  have h4 := hop .opd
  have h5 := hop .k
  cases s
  cases t
  simp_all [State.operand]

end Sys2Proof.Machine
end

