-- ==== Sys2Proof/Laws/Ops.lean ====
section
/-! SUPPORT. What each shared operation can do, said once. -/

namespace Sys2Proof.Machine

theorem State.phase_eq_idle {s : State} : s.phase = .idle ↔ s.seq = .idle := by
  unfold State.phase
  split <;> simp_all

theorem State.busy_eq_false {s : State} : s.busy = false ↔ s.seq = .idle := by
  simp [State.busy, ← State.phase_eq_idle]

/-- A START in IDLE goes on to its operands (R43). -/
theorem whenIdle_of_idle {s : State} (h : s.seq = .idle) (go : Outcome) : whenIdle s go = go := by
  simp [whenIdle, h]

/-- A START while busy changes nothing (R43). -/
theorem whenIdle_of_busy {s : State} (h : s.seq ≠ .idle) (go : Outcome) : whenIdle s go = .next s := by
  unfold whenIdle
  split
  · contradiction
  all_goals rfl

/-- The two ways a START can answer (R43): it was ignored, or the core was idle and the command went on. -/
theorem whenIdle_cases {s : State} {go out : Outcome} (h : whenIdle s go = out) :
    (s.seq ≠ .idle ∧ out = .next s) ∨ (s.seq = .idle ∧ go = out) := by
  by_cases hs : s.seq = .idle
  · exact .inr ⟨hs, by rw [← h, whenIdle_of_idle hs]⟩
  · exact .inl ⟨hs, by rw [← h, whenIdle_of_busy hs]⟩

theorem State.busy_accept (s : State) {q : Sequencer} (hq : q ≠ .idle) : (s.accept q).busy = true := by
  by_contra h
  rw [Bool.not_eq_true, State.busy_eq_false] at h
  exact hq h

/-- After an accepted START, STATUS reads 0x01 (R43). -/
theorem State.statusByte_accept (s : State) {q : Sequencer} (hq : q ≠ .idle) : (s.accept q).statusByte = 0x01 := by
  simp only [State.statusByte, s.busy_accept hq, State.accept_err, State.accept_rzv, State.accept_rxv, State.accept_done]
  decide

/-- After a ratio result, STATUS reads 0x0E (R15). -/
theorem State.statusByte_completeRatio (s : State) (p : Ratio) : (s.completeRatio p).statusByte = 0x0E := by
  have hb : (s.completeRatio p).busy = false := State.busy_eq_false.2 rfl
  simp only [State.statusByte, hb, State.completeRatio_err, State.completeRatio_rzv, State.completeRatio_rxv,
    State.completeRatio_done]
  decide

/-- After an affine result, STATUS reads 0x06 (R15). -/
theorem State.statusByte_completeAffine (s : State) (x : FieldElt) : (s.completeAffine x).statusByte = 0x06 := by
  have hb : (s.completeAffine x).busy = false := State.busy_eq_false.2 rfl
  simp only [State.statusByte, hb, State.completeAffine_err, State.completeAffine_rzv, State.completeAffine_rxv,
    State.completeAffine_done]
  decide

/-- After DEGENERATE_RATIO, STATUS reads 0x12 (R15, R106). -/
theorem State.statusByte_raise_degenerate (s : State) : (s.raise .degenerateRatio).statusByte = 0x12 := by
  have hb : (s.raise .degenerateRatio).busy = false := State.busy_eq_false.2 rfl
  simp only [State.statusByte, hb, State.raise_err, State.raise_rzv, State.raise_rxv, State.raise_done]
  decide

theorem withOperand_some {s : State} {r : OperandReg} {v : Word} (h : s.operand r = some v) (go : Word → Outcome) :
    withOperand s r go = go v := by
  simp [withOperand, h]

theorem withOperand_none {s : State} {r : OperandReg} (h : s.operand r = none) (go : Word → Outcome) :
    withOperand s r go = .refused (.startNoValue r) := by
  simp [withOperand, h]

/-- An operand read goes on exactly when the register holds a value (R23). -/
theorem withOperand_next {s t : State} {r : OperandReg} {go : Word → Outcome} (h : withOperand s r go = .next t) :
    ∃ v, s.operand r = some v ∧ go v = .next t := by
  cases hr : s.operand r with
  | none => simp [withOperand_none hr] at h
  | some v => exact ⟨v, rfl, by rwa [withOperand_some hr] at h⟩

/-- Every meaning that answers a next state either ignored the START or accepted it with some captured registers (R43). -/
theorem exec_next {i : Instr} {s t : State} (h : exec i s = .next t) :
    (s.seq ≠ .idle ∧ t = s) ∨ (s.seq = .idle ∧ ∃ q, q ≠ .idle ∧ t = s.accept q) := by
  cases i <;> rcases whenIdle_cases h with ⟨hs, ht⟩ | ⟨hs, hgo⟩
  case mult.inr =>
    obtain ⟨x, _, hgo⟩ := withOperand_next hgo
    obtain ⟨n, _, hgo⟩ := withOperand_next hgo
    exact .inr ⟨hs, _, by simp, (Host.Outcome.next.inj hgo).symm⟩
  case dbl.inr =>
    obtain ⟨x, _, hgo⟩ := withOperand_next hgo
    obtain ⟨z, _, hgo⟩ := withOperand_next hgo
    exact .inr ⟨hs, _, by simp, (Host.Outcome.next.inj hgo).symm⟩
  case dadd.inr =>
    obtain ⟨x, _, hgo⟩ := withOperand_next hgo
    obtain ⟨z, _, hgo⟩ := withOperand_next hgo
    obtain ⟨a, _, hgo⟩ := withOperand_next hgo
    obtain ⟨b, _, hgo⟩ := withOperand_next hgo
    exact .inr ⟨hs, _, by simp, (Host.Outcome.next.inj hgo).symm⟩
  case aff.inr =>
    obtain ⟨x, _, hgo⟩ := withOperand_next hgo
    obtain ⟨z, _, hgo⟩ := withOperand_next hgo
    exact .inr ⟨hs, _, by simp, (Host.Outcome.next.inj hgo).symm⟩
  all_goals exact .inl ⟨hs, Host.Outcome.next.inj ht⟩

/-- What a sequencer's turn can do (R18): nothing in IDLE, one iteration, or the completion of the call with a ratio, with an
affine result, or, for AFF alone, with an error. -/
theorem seqStep_next {s t : State} (h : seqStep s = .next t) :
    (s.seq = .idle ∧ t = s) ∨
    (∃ r, s.seq = .loop r ∧ s.iter.toNat < curve.nbits ∧
      t = (s.setIter (s.iter + 1)).setSeq
        (if s.iter.toNat + 1 = curve.nbits then .final (r.iterate (ladderBit r.kl s.iter.toNat))
         else .loop (r.iterate (ladderBit r.kl s.iter.toNat)))) ∨
    (∃ r, s.seq = .final r ∧ t = s.completeRatio r.result) ∨
    (∃ x z, s.seq = .execDbl x z ∧ t = s.completeRatio (double x z)) ∨
    (∃ x z a b, s.seq = .execDadd x z a b ∧ t = s.completeRatio (diffAdd x z a b)) ∨
    (∃ x z v, s.seq = .execAff x z ∧ affine x z = .ok v ∧ t = s.completeAffine v) ∨
    (∃ x z e, s.seq = .execAff x z ∧ affine x z = .error e ∧ t = s.raise e) := by
  unfold seqStep at h
  split at h
  case h_1 hs => exact .inl ⟨hs, (Host.Outcome.next.inj h).symm⟩
  case h_2 r hs =>
    unfold iterStep at h
    split at h
    case isTrue hlt => exact .inr (.inl ⟨r, hs, hlt, (Host.Outcome.next.inj h).symm⟩)
    case isFalse => cases h
  case h_3 r hs => exact .inr (.inr (.inl ⟨r, hs, (Host.Outcome.next.inj h).symm⟩))
  case h_4 x z hs => exact .inr (.inr (.inr (.inl ⟨x, z, hs, (Host.Outcome.next.inj h).symm⟩)))
  case h_5 x z a b hs => exact .inr (.inr (.inr (.inr (.inl ⟨x, z, a, b, hs, (Host.Outcome.next.inj h).symm⟩))))
  case h_6 x z hs =>
    unfold affStep at h
    cases hv : affine x z with
    | ok v =>
      simp only [hv] at h
      exact .inr (.inr (.inr (.inr (.inr (.inl ⟨x, z, v, hs, hv, (Host.Outcome.next.inj h).symm⟩)))))
    | error e =>
      simp only [hv] at h
      exact .inr (.inr (.inr (.inr (.inr (.inr ⟨x, z, e, hs, hv, (Host.Outcome.next.inj h).symm⟩)))))

/-- A run of sequencer steps cut in two. -/
theorem seqRun_add (m n : Nat) (s : State) :
    seqRun (m + n) s = match seqRun m s with
      | .next t => seqRun n t
      | .fault f => .fault f
      | .refused r => .refused r := by
  induction m generalizing s with
  | zero => simp [seqRun]
  | succ m ih =>
    rw [Nat.succ_add]
    simp only [seqRun]
    split
    · rename_i t _
      exact ih t
    · rfl
    · rfl

theorem core_run_succ (M : Host.Core) (n : Nat) (s : M.State) : M.run (n + 1) s =
    (match M.step s with
      | .next t => M.run n t
      | .fault f => .fault f
      | .refused r => .refused r) := rfl

/-- The runs of claims are the host's runs of this machine. -/
theorem core_run_eq (n : Nat) (s : State) : Host.Core.run core n s = runSteps n s := by
  induction n generalizing s with
  | zero => rfl
  | succ n ih =>
    refine (core_run_succ core n s).trans ?_
    have h : core.step s = step s := rfl
    rw [h, runSteps]
    cases step s with
    | next t => exact ih t
    | fault f => rfl
    | refused r => rfl

/-- One event more at the front of a run. -/
theorem runSteps_succ (n : Nat) {s t : State} (h : step s = .next t) : runSteps (n + 1) s = runSteps n t := by
  simp only [runSteps, h]

/-- A run cut in two. -/
theorem runSteps_add (m n : Nat) {s t : State} (h : runSteps m s = .next t) : runSteps (m + n) s = runSteps n t := by
  induction m generalizing s with
  | zero =>
    obtain rfl := Host.Outcome.next.inj h
    rw [Nat.zero_add]
  | succ m ih =>
    rw [Nat.succ_add]
    cases hs : step s with
    | next u =>
      rw [runSteps_succ _ hs] at h ⊢
      exact ih h
    | fault f => simp [runSteps, hs] at h
    | refused r => simp [runSteps, hs] at h

/-- Placing a value in the registers a command reads leaves all but operand registers alone. -/
theorem State.supply_script (s : State) (v : Word) (rs : List OperandReg) : (s.supply v rs).script = s.script := by
  induction rs generalizing s with
  | nil => rfl
  | cons r rs ih =>
    unfold State.supply
    split <;> simp [ih]

theorem State.supply_seq (s : State) (v : Word) (rs : List OperandReg) : (s.supply v rs).seq = s.seq := by
  induction rs generalizing s with
  | nil => rfl
  | cons r rs ih =>
    unfold State.supply
    split <;> simp [ih]

end Sys2Proof.Machine
end

