-- ==== Sys2Proof/Laws/PerInstr.lean ====
section
/-! SUPPORT. Statements per instruction, one lemma per constructor (spec/30_encoding.md R42). -/

namespace Sys2Proof.Laws

/-- The code of a well-formed command, in a carrier byte with any platform bits above it, decodes to that command and
leaves the bytes behind it. -/
def CarrierDecodes.Statement (i : Instr) : Prop :=
  i.wellFormed = true → ∀ (b : Byte) (rest : List Byte), carriedCode b = encodeCode i → decode (b :: rest) = .ok (i, rest)

theorem CarrierDecodes.mult : CarrierDecodes.Statement .mult := by
  intro _ b rest h
  simp [decode, h, encodeCode, decodeCode]

theorem CarrierDecodes.dbl : CarrierDecodes.Statement .dbl := by
  intro _ b rest h
  simp [decode, h, encodeCode, decodeCode]

theorem CarrierDecodes.dadd : CarrierDecodes.Statement .dadd := by
  intro _ b rest h
  simp [decode, h, encodeCode, decodeCode]

theorem CarrierDecodes.aff : CarrierDecodes.Statement .aff := by
  intro _ b rest h
  simp [decode, h, encodeCode, decodeCode]

end Sys2Proof.Laws
end

