-- ==== Sys2Proof/Tests/Slice0.lean ====
section
/-! SUPPORT. Small checks of the model against the tables of spec/95_test_vectors.md and the encodings of
spec/30_encoding.md, and the witnesses: for every statement with hypotheses, a state and operands that meet them. -/

namespace Sys2Proof.Tests

open Sys2Proof.Machine

/-! ### Well-formedness -/

theorem test_ill_formed_source_refused : sourceWellFormed 0 (.noted 0) = false := by decide
theorem test_ill_formed_source_past_last_note_refused : sourceWellFormed 2 (.noted 2) = false := by decide
theorem test_ill_formed_script_refused : scriptWellFormed 0 [.wr .opa (.noted 0)] = false := by decide
theorem test_ill_formed_script_behind_one_read_refused :
    scriptWellFormed 0 [.rd .rx, .wr .opa (.noted 1)] = false := by decide
theorem test_well_formed_movr : scriptWellFormed 0 movrLines = true := by decide
theorem test_well_formed_multaff : scriptWellFormed 0 multAffLines = true := by decide
theorem test_every_command_well_formed : [Instr.mult, .dbl, .dadd, .aff].all Instr.wellFormed = true := by decide

/-! ### Decoding: the codes of R42 written out bit by bit -/

theorem test_decode_mult : decodeTableWord 8 0b00000000 = some .mult := by decide
theorem test_decode_dbl : decodeTableWord 8 0b00000001 = some .dbl := by decide
theorem test_decode_dadd : decodeTableWord 8 0b00000010 = some .dadd := by decide
theorem test_decode_aff : decodeTableWord 8 0b00000011 = some .aff := by decide
theorem test_decode_two_bit_word : decodeTableWord 2 0b11 = some .aff := by decide
/-- The bits above bit 1 are the platform's (R41). -/
theorem test_decode_ignores_platform_bits :
    decodeTableWord 8 0b11111100 = some .mult ∧ decodeTableWord 8 0b10101001 = some .dbl := by decide
theorem test_decode_no_byte : decode [] = .error .noCarrier := rfl
theorem test_encode_codes : encode .mult = [0x00] ∧ encode .dbl = [0x01] ∧ encode .dadd = [0x02] ∧ encode .aff = [0x03] := by
  decide

/-! ### A small state -/

/-- Idle, OPA, OPB, OPC, OPD, K as given, nothing else since reset. -/
def idleWith (a b c d k : Option Word) : State := { State.reset with opa := a, opb := b, opc := c, opd := d, k := k }

/-- Every operand register holds a value. -/
def ready : State := idleWith (some 9) (some 1) (some 9) (some 1) (some 1)

/-- A ladder in its ITER step number `j`, with the seed of X = 9 and SWAP = 0. -/
def inLoop (j : BitVec 8) (kl : BitVec 255) : State :=
  { ready with iter := j, seq := .loop (LadderRegs.seed 9 kl) }

/-- A ladder before its FINAL step, SWAP = 0. -/
def inFinal : State := { ready with iter := 255, seq := .final (LadderRegs.seed 9 0) }

/-- The state an outcome goes on to. -/
def nextOf : Outcome → Option State
  | .next s => some s
  | .fault _ => none
  | .refused _ => none

/-- RX and RZ after the EXEC step. -/
def resultOf (o : Outcome) : Option (Option Word × Option Word × BitVec 8) :=
  (nextOf o).map fun s => (s.rx, s.rz, s.statusByte)

/-! ### Field functions (95_test_vectors 2.1) -/

theorem test_reduce_vectors :
    reduce (2 ^ 255) = 0x13 ∧ reduce (2 ^ 256 - 1) = 0x25 ∧
    reduce (-1) = 0x7fffffffffffffffffffffffffffffffffffffffffffffffffffffffffffffec := by decide +kernel
theorem test_square_vectors :
    square (2 ^ 128) = 0x26 ∧
    square (2 ^ 254) = 0x600000000000000000000000000000000000000000000000000000000000004c := by decide +kernel
theorem test_fsub_borrow : fsub 5 9 = 0x7fffffffffffffffffffffffffffffffffffffffffffffffffffffffffffffe9 := by decide +kernel
theorem test_inverse_vectors :
    inverseOf 19 = some 0x2f286bca1af286bca1af286bca1af286bca1af286bca1af286bca1af286bca14 ∧
    inverseOf P = none := by decide +kernel

/-! ### AFF (95_test_vectors 2.2) -/

/-- z = 2^255 reduces to 19. -/
theorem test_aff_step_reduces_denominator :
    resultOf (affStep ready (reduceWord 7) (reduceWord (2 ^ 255))) =
      some (some 0x4a1af286bca1af286bca1af286bca1af286bca1af286bca1af286bca1af286b2, none, 0x06) := by decide +kernel
/-- The row (5, P): ERR 1 though the register is not 0. -/
theorem test_aff_step_degenerate :
    resultOf (affStep ready (reduceWord 5) (reduceWord (BitVec.ofNat 256 P))) = some (none, none, 0x12) := by decide +kernel

/-! ### DBL (95_test_vectors 2.3) -/

/-- 4 times the base point, from the row before it. -/
theorem test_dbl_step_four_times_base :
    resultOf (dblStep ready (reduceWord 0x1900) (reduceWord 0x9660720)) =
      some (some 0x1e7aa9269a4d9f6a96bd1e100000, some 0x1a4a07d15624c8a84762000000, 0x0E) := by decide +kernel
/-- x = -z: E is negative before it is reduced. -/
theorem test_dbl_step_opposite_operands :
    resultOf (dblStep ready (reduceWord (BitVec.ofNat 256 (P - 1))) (reduceWord 1)) =
      some (some 0, some 0x1db410, 0x0E) := by decide +kernel

/-! ### DADD (95_test_vectors 2.4) -/

/-- 5 times the base point from the 4P and 3P pairs. -/
theorem test_dadd_step_five_times_base :
    resultOf (daddStep ready
        (reduceWord 0x2367c313ec0ed8e0887538b32fcd4608000000000) (reduceWord 0x1e89c4bad4b7064305c31c98309100000000000)
        (reduceWord 0x16112956bb61000) (reduceWord 0x3ee27bed76d439000)) =
      some (some 0x7502beefd7f43a3627e12012591c3df8840f3689a0f9d5536df355fa84bf7973,
        some 0x715ee330645f14e3a2fb631b665503d6c30a0f559c74e3fe3df6f3e34d8c2729, 0x0E) := by decide +kernel
/-- prevZ = 0 forces x'' = 0, and prevX multiplies z''. -/
theorem test_dadd_step_crossing :
    resultOf (daddStep ready 5 3 7 0) = some (some 0, some 0x34f0, 0x0E) := by decide +kernel

/-! ### MULT (95_test_vectors 2.5, 2.6) -/

/-- The sequencer after a step. -/
def seqOf (o : Outcome) : Option Sequencer := (nextOf o).map State.seq

/-- A zero bit: (x3, z3) moves to (4 x3², 4 x1 z3²), the identity stays (R86). -/
theorem test_mult_step_zero_bit :
    seqOf (seqStep (inLoop 0 1)) =
      some (.loop { x1 := 9, x2 := 1, z2 := 0, x3 := 324, z3 := 36, swap := false, kl := 1 }) := by decide +kernel
/-- The last bit set: the accumulators are swapped first, so (9, 1) is doubled to (0x1900, 0x9660720), and SWAP keeps the
bit (R63 example, R75, R79). -/
theorem test_mult_step_last_bit_set :
    seqOf (seqStep (inLoop 254 1)) =
      some (.final { x1 := 9, x2 := 0x1900, z2 := 0x9660720, x3 := 324, z3 := 36, swap := true, kl := 1 }) := by
  decide +kernel
/-- The known answer (1.1). -/
theorem test_mult_known_answer :
    pointMult 9 1 = (0x2a2e2d148a47fa084000000000, 0x4afcc1eba07ff564000000000) := by decide +kernel

/-! ### START (R43) and the step -/

theorem test_start_captures_reduced :
    (nextOf (exec .mult (idleWith (some (2 ^ 256 - 1)) none none none (some (2 ^ 256 - 1))))).map State.seq =
      some (.loop { x1 := 37, x2 := 1, z2 := 0, x3 := 37, z3 := 1, swap := false, kl := BitVec.allOnes 255 }) := by
  decide +kernel
theorem test_start_busy_ignored : exec .aff (inLoop 7 5) = .next (inLoop 7 5) := rfl
theorem test_start_refused_at_novalue :
    exec .dadd (idleWith (some 1) (some 2) none (some 4) (some 5)) = .refused (.startNoValue .opc) := rfl
theorem test_status_after_start : (nextOf (exec .dbl ready)).map State.statusByte = some 0x01 := by decide +kernel
theorem test_placed_command_runs : (nextOf (step (State.reset.withFetchWord 8 0b10))).map State.op = some (some 2) := by
  decide +kernel
theorem test_read_before_result_refused :
    step { ready with script := [.rd .rx] } = .refused (.readNoValue .rx) := rfl

/-! ### Witnesses -/

theorem reset_inv : State.reset.Inv := by
  refine ⟨Or.inl rfl, ?_, ?_, ?_⟩
  · constructor <;> decide
  · intro w hw; cases hw
  · intro w hw; cases hw

/-- A running MULT call meets the invariant: the first iteration. -/
theorem inLoop_inv : (inLoop 0 1).Inv := by
  refine ⟨⟨by decide +kernel, ⟨?_, ?_, ?_, ?_, ?_⟩, rfl⟩, ?_, ?_, ?_⟩
  iterate 5 decide +kernel
  · constructor <;> decide
  · intro w hw; cases hw
  · intro w hw; cases hw

/-- A MULT call before its FINAL step meets the invariant. -/
theorem inFinal_inv : inFinal.Inv := by
  refine ⟨⟨rfl, ⟨?_, ?_, ?_, ?_, ?_⟩, by decide +kernel⟩, ?_, ?_, ?_⟩
  iterate 5 decide +kernel
  · constructor <;> decide
  · intro w hw; cases hw
  · intro w hw; cases hw

/-- Idle with every operand there: the hypotheses of the START and call statements (StartEventOfEveryCommand, StartFrame,
StartAcceptedExactlyWhenReady, DblCallComputesDoublingLaw, DaddCallComputesDifferentialAddition, MultCallComputesPointMult,
EveryCallEndsAfterFixedSteps). -/
theorem test_witness_ready :
    ready.phase = .idle ∧ ready.opa = some 9 ∧ ready.opb = some 1 ∧ ready.opc = some 9 ∧ ready.opd = some 1 ∧
      ready.k = some 1 := by decide
theorem test_witness_ready_accepts :
    [Instr.mult, .dbl, .dadd, .aff].all (fun i => (nextOf (exec i ready)).map State.busy == some true) = true := by
  decide +kernel
theorem test_witness_start_busy : (inLoop 0 1).phase ≠ .idle ∧ exec .dbl (inLoop 0 1) = .next (inLoop 0 1) := ⟨by decide, rfl⟩
theorem test_witness_start_novalue :
    State.reset.phase = .idle ∧
      ∀ i ∈ [Instr.mult, .dbl, .dadd, .aff], ∃ r ∈ need i, State.reset.operand r = none := by decide
/-- The boundary scalars and operands of the calls: 0 and 2^256 - 1. -/
theorem test_witness_boundary_operands :
    (idleWith (some 0) none none none (some (2 ^ 256 - 1))).phase = .idle ∧
      (exec .mult (idleWith (some 0) none none none (some (2 ^ 256 - 1))) ≠
        .refused (.startNoValue .k)) := by
  refine ⟨by decide, ?_⟩
  intro h; cases h

/-- AffCallRecoversOrRaises: denominators just off and on the multiples of P. -/
theorem test_witness_aff_denominators :
    (1 : Word).toNat % P ≠ 0 ∧ (BitVec.ofNat 256 (P + 1)).toNat % P ≠ 0 ∧ (BitVec.ofNat 256 (2 ^ 256 - 1)).toNat % P ≠ 0 ∧
    (0 : Word).toNat % P = 0 ∧ (BitVec.ofNat 256 P).toNat % P = 0 ∧ (BitVec.ofNat 256 (2 * P)).toNat % P = 0 := by
  decide +kernel
/-- FailedAffIsPreciseAndRepeats. -/
theorem test_witness_failed_aff :
    (idleWith (some 5) (some 0) none none none).phase = .idle ∧ (idleWith (some 5) (some 0) none none none).opa = some 5 ∧
      (idleWith (some 5) (some 0) none none none).opb = some 0 ∧ (0 : Word).toNat % P = 0 := by decide +kernel

/-- StepRunsDecodedCommand: a START line, and a table word. -/
theorem test_witness_start_line :
    ({ ready with script := [.start 2, .wait] } : State).script = .start 2 :: [.wait] ∧
      decodeTableWord 8 0x2 = some .dadd := by decide
/-- SequencerTurns: no line, a `tick` line, IDLE. -/
theorem test_witness_turns :
    ready.script = [] ∧ ({ ready with script := [.tick] } : State).script = .tick :: [] ∧ ready.phase = .idle := by decide
/-- DecodeInvertsEncode: a carrier byte with platform bits, and the code it carries. -/
theorem test_witness_carrier : (0xFE : Byte).toNat % 4 = (encodeCode .dadd).toNat ∧ Instr.dadd.wellFormed = true := by decide
/-- PlacedCommandRunsAtReset at both ends of its range. -/
theorem test_witness_placed :
    (nextOf (step (State.reset.withFetchWord 8 0))).map State.op = some (some 0) ∧
      (nextOf (step (State.reset.withFetchWord 8 3))).map State.op = some (some 3) := by decide +kernel

/-- IterStepComputesCombinedStep: the first and the last iteration. -/
theorem test_witness_iter_step :
    (inLoop 0 1).seq = .loop (LadderRegs.seed 9 1) ∧ (inLoop 0 1).iter.toNat < 255 ∧ (inLoop 254 1).iter.toNat < 255 := by
  decide +kernel
/-- FinalStepPublishesRatio. -/
theorem test_witness_final_step : inFinal.seq = .final (LadderRegs.seed 9 0) := rfl
/-- IterCountsIterations: the accepted START, both kinds of sequencer step, a line that leaves ITER alone. -/
theorem test_witness_iter_counts :
    (nextOf (exec .mult ready)).isSome = true ∧ (nextOf (seqStep (inLoop 0 1))).isSome = true ∧
      (nextOf (seqStep inFinal)).isSome = true ∧
      (nextOf (step { ready with script := [.rd .iter] })).isSome = true := by decide +kernel
/-- CompletionIsAtomic: the call goes on, ends with a result, ends with an error. -/
theorem test_witness_completion :
    (nextOf (seqStep (inLoop 0 1))).map State.busy = some true ∧ (nextOf (seqStep inFinal)).map State.err = some .none ∧
      (nextOf (seqStep { ready with seq := .execAff 5 0 })).map State.err = some .degenerateRatio := by decide +kernel
/-- ErrorCodesByCommand: the commands of one step, AFF with both of its codes. -/
theorem test_witness_error_codes :
    (nextOf (seqRun (callSteps .dbl) (ready.accept (.execDbl 9 1)))).map State.err = some .none ∧
      (nextOf (seqRun (callSteps .dadd) (ready.accept (.execDadd 9 1 9 1)))).map State.err = some .none ∧
      (nextOf (seqRun (callSteps .aff) (ready.accept (.execAff 9 1)))).map State.err = some .none ∧
      (nextOf (seqRun (callSteps .aff) (ready.accept (.execAff 9 0)))).map State.err = some .degenerateRatio := by
  decide +kernel

/-- CallResultDependsOnlyOnOperands: two hosts, one that waits for nothing and one that meddles before the DBL's step. -/
theorem test_witness_call_result :
    let s : State := { ready with script := .start (encodeCode .dbl) :: [] ++ .tick :: [] }
    let s' : State := { ready with
      k := none, opc := some 5, script := .start (encodeCode .dbl) :: [.wr .opa (.lit 7), .start 0, .rd .status] ++ .tick :: [.rd .rx] }
    s.phase = .idle ∧ s'.phase = .idle ∧ s.opa = s'.opa ∧ s.opb = s'.opb ∧ s.opa = some 9 ∧ s.opb = some 1 ∧
      [HostLine.wr .opa (.lit 7), .start 0, .rd .status].all HostLine.quiet = true ∧
      ([] : List HostLine).count .tick + 1 = callSteps .dbl ∧
      [HostLine.wr .opa (.lit 7), .start 0, .rd .status].count .tick + 1 = callSteps .dbl := by decide

/-- CallResultIsTheSameUnderAnyHost: two hosts, one that has no line left, one that reads an operand and then waits; the core
is first idle again after 2 and after 3 events. -/
theorem test_witness_call_result_any_host :
    let s : State := { ready with script := .start (encodeCode .dbl) :: [] }
    let s' : State := { ready with k := none, script := .start (encodeCode .dbl) :: [.rd .opa, .wait, .rd .rx] }
    s.phase = .idle ∧ s'.phase = .idle ∧ (∀ r ∈ need .dbl, s.operand r = s'.operand r ∧ (s.operand r).isSome = true) ∧
      .reset ∉ [HostLine.rd .opa, .wait, .rd .rx] ∧
      (nextOf (runSteps 1 s)).map State.busy = some true ∧ (nextOf (runSteps 2 s)).map State.busy = some false ∧
      (nextOf (runSteps 1 s')).map State.busy = some true ∧ (nextOf (runSteps 2 s')).map State.busy = some true ∧
      (nextOf (runSteps 3 s')).map State.busy = some false := by decide +kernel

/-- WriteReplacesOneRegister, ResetEventRestoresResetState. -/
theorem test_witness_write_and_reset :
    ({ ready with script := [.wr .k (.lit 5)] } : State).script = .wr .k (.lit 5) :: [] ∧
      ({ inLoop 3 1 with script := [.reset] } : State).script = .reset :: [] := by decide +kernel
/-- ReadReturnsValueOrIsRefused: a register with a value, and one without. -/
theorem test_witness_read :
    ({ ready with script := [.rd .opa] } : State).opa = some 9 ∧ ({ ready with script := [.rd .rx] } : State).rxv = false ∧
      ({ State.reset with script := [.rd .k] } : State).k = none := by decide
/-- WaitEndsAtCompletion: DONE 1, DONE 0, and a running call with one and with 256 steps left. -/
theorem test_witness_wait :
    ({ ready with done := true, script := [.wait] } : State).done = true ∧ ({ ready with script := [.wait] } : State).done = false ∧
      (inLoop 0 1).busy = true ∧ (inLoop 0 1).stepsLeft = 256 ∧ inFinal.busy = true ∧ inFinal.stepsLeft = 1 := by
  decide +kernel
theorem test_witness_wait_invariant : ({ inLoop 0 1 with script := [.wait] } : State).Inv :=
  ⟨inLoop_inv.seq, ⟨inLoop_inv.status.1, inLoop_inv.status.2, inLoop_inv.status.3, inLoop_inv.status.4, inLoop_inv.status.5,
    inLoop_inv.status.6, inLoop_inv.status.7, inLoop_inv.status.8⟩, inLoop_inv.rx, inLoop_inv.rz⟩
/-- MultAffPipelineRecovers. -/
theorem test_witness_multaff :
    let s : State := { ready with script := multAffLines ++ [.rd .rx] }
    s.phase = .idle ∧ s.opa = some 9 ∧ s.k = some 1 ∧ s.script = multAffLines ++ [.rd .rx] := by decide

/-- StepKeepsInvariant, StatusValuesReachable, NoStepFaults: states that meet the invariant, idle and running, and step. -/
theorem test_witness_invariant :
    State.reset.Inv ∧ (inLoop 0 1).Inv ∧ inFinal.Inv ∧ (nextOf (step State.reset)).isSome = true ∧
      (nextOf (step (inLoop 0 1))).isSome = true := ⟨reset_inv, inLoop_inv, inFinal_inv, by decide, by decide +kernel⟩
/-- RefusalsAreNovalueMoves, ScriptStaysWellFormed: a well-formed script at reset, refused and not. -/
theorem test_witness_refusals :
    scriptWellFormed State.reset.seen.length [.start 0] = true ∧
      (nextOf (step { State.reset with script := [.start 0] })).isSome = false ∧
      (nextOf (step { State.reset with script := [.wr .opa (.lit 1)] })).isSome = true := by decide +kernel
/-- ResultsAreCanonical: the FINAL step writes both registers. -/
theorem test_witness_results :
    inFinal.Inv ∧ (nextOf (seqStep inFinal)).map State.rx = some (some 1) ∧ (nextOf (seqStep inFinal)).map State.rz = some (some 0) :=
  ⟨inFinal_inv, by decide +kernel, by decide +kernel⟩

/-- ReduceIsCanonicalRepresentative, InverseContract. -/
theorem test_witness_field :
    (5 : FieldElt).toNat < P ∧ ((P : Int) ∣ (P : Int) + 5 - (5 : FieldElt).toNat) ∧ (2 : Int) % P ≠ 0 ∧ (P : Int) % P = 0 := by
  decide +kernel
/-- FieldLaws, RepresentationIndependence, CrossMultiplicationDecidesEquality: canonical values, 0, 1 and P - 1 among them. -/
theorem test_witness_canonical :
    Canonical 0 ∧ Canonical 1 ∧ Canonical 18 ∧ Canonical 2 ∧ Canonical (BitVec.ofNat 255 (P - 1)) ∧ (2 : FieldElt) ≠ 0 ∧
      (1 : FieldElt) ≠ 0 := by decide +kernel
/-- DoublingInfinity, MultReadsOperandsModulo, MultDegenerateInputs, MultByOneRecoversX, DoublingAgreesWithLadder. -/
theorem test_witness_moduli :
    (BitVec.ofNat 256 P).toNat % P = 0 ∧ (BitVec.ofNat 256 (P + 9)).toNat % P = (9 : Word).toNat % P ∧
      (BitVec.ofNat 256 (2 ^ 255 + 1)).toNat % 2 ^ 255 = (1 : Word).toNat % 2 ^ 255 ∧
      (BitVec.ofNat 256 (2 ^ 255)).toNat % 2 ^ 255 = 0 ∧ (1 : Word).toNat % 2 ^ 255 ≠ 0 ∧ (9 : Word).toNat % P ≠ 0 := by
  decide +kernel
/-- DoublingAgreesWithLadder: both of its cases occur. -/
theorem test_witness_doubling_cases : (pointDouble 9 1).2 ≠ 0 ∧ (pointDouble 0 1).2 = 0 ∧ (1 : Word).toNat % P ≠ 0 := by
  decide +kernel

end Sys2Proof.Tests
end

section
/-! SUPPORT. The derived constants of the curve (spec/00_scope.md R3): the divisions by four leave no remainder, and the two
constants stay apart as 255-bit field elements. -/

namespace Sys2Proof.Machine

/-- The doubler's division by four is exact (R3). -/
theorem four_mul_curve_a24p : 4 * curve.a24p = curve.a + 2 := by decide

/-- The ladder step's division by four is exact (R3). -/
theorem four_mul_curve_a24m_add_two : 4 * curve.a24m + 2 = curve.a := by decide

theorem curve_a24p_eq : curve.a24p = 121666 := by
  have hquarter := four_mul_curve_a24p
  have ha : curve.a = 486662 := rfl
  omega

theorem curve_a24m_eq : curve.a24m = 121665 := by
  have hquarter := four_mul_curve_a24m_add_two
  have ha : curve.a = 486662 := rfl
  omega

theorem toNat_a24p : a24p.toNat = 121666 := by
  simp [a24p, curve_a24p_eq]

theorem toNat_a24m : a24m.toNat = 121665 := by
  simp [a24m, curve_a24m_eq]

/-- No truncation to 255 bits makes the two constants one (R3: "They are not interchangeable"). -/
theorem a24p_ne_a24m : a24p ≠ a24m := by
  intro h
  have htoNat := congrArg BitVec.toNat h
  rw [toNat_a24p, toNat_a24m] at htoNat
  omega

/-- Settles O3: the quarters and the values of the two constants are lemmas above; the base point and the prime are the
record's own fields. -/
theorem derivedConstantsAreExact : Obligations.DerivedConstantsAreExact :=
  ⟨four_mul_curve_a24p, curve_a24p_eq, four_mul_curve_a24m_add_two, curve_a24m_eq, a24p_ne_a24m, rfl, rfl, rfl⟩

end Sys2Proof.Machine
end

section
/-! SUPPORT. `step` and the sequencer's turn, an equation per case, and what each host line can do (spec/10_state.md R18, R28;
spec/30_encoding.md R46). -/

namespace Sys2Proof.Machine

theorem curve_nbits_eq : curve.nbits = 255 := rfl

/-! ### The schedule -/

theorem step_of_nil {s : State} (h : s.script = []) : step s = seqStep s := by
  simp only [step, h]

theorem step_of_start {s : State} {code : BitVec 2} {rest : List HostLine} (h : s.script = .start code :: rest) :
    step s = exec (decodeCode code) (s.setScript rest) := by
  simp only [step, h]

theorem step_of_wr {s : State} {r : OperandReg} {v : Source} {rest : List HostLine} (h : s.script = .wr r v :: rest) :
    step s = hostWrite (s.setScript rest) r v := by
  simp only [step, h]

theorem step_of_rd {s : State} {r : HostReg} {rest : List HostLine} (h : s.script = .rd r :: rest) :
    step s = hostReadLine (s.setScript rest) r := by
  simp only [step, h]

theorem step_of_wait {s : State} {rest : List HostLine} (h : s.script = .wait :: rest) : step s = hostWait s rest := by
  simp only [step, h]

theorem step_of_reset {s : State} {rest : List HostLine} (h : s.script = .reset :: rest) :
    step s = .next (s.setScript rest).resetCore := by
  simp only [step, h]

theorem step_of_tick {s : State} {rest : List HostLine} (h : s.script = .tick :: rest) :
    step s = seqStep (s.setScript rest) := by
  simp only [step, h]

/-! ### Host lines -/

/-- A write that answers a next state put some value in the register (R11). -/
theorem hostWrite_next {s t : State} {r : OperandReg} {v : Source} (h : hostWrite s r v = .next t) :
    ∃ w, t = s.setOperand r w := by
  cases v with
  | lit w => exact ⟨w, (Host.Outcome.next.inj h).symm⟩
  | noted back =>
    simp only [hostWrite] at h
    split at h
    · exact ⟨_, (Host.Outcome.next.inj h).symm⟩
    · cases h

/-- A write whose source the host has is not refused. -/
theorem hostWrite_of_wellFormed {s : State} {v : Source} (h : sourceWellFormed s.seen.length v = true) (r : OperandReg) :
    ∃ t, hostWrite s r v = .next t := by
  cases v with
  | lit w => exact ⟨_, rfl⟩
  | noted back =>
    have hlt : back < s.seen.length := by simpa [sourceWellFormed] using h
    exact ⟨s.setOperand r s.seen[back].2, by simp [hostWrite, List.getElem?_eq_getElem hlt]⟩

theorem hostReadLine_some {s : State} {r : HostReg} {v : Word} (h : s.hostRead r = some v) :
    hostReadLine s r = .next (s.note r v) := by
  simp only [hostReadLine, h]

theorem hostReadLine_none {s : State} {r : HostReg} (h : s.hostRead r = none) :
    hostReadLine s r = .refused (.readNoValue r) := by
  simp only [hostReadLine, h]

theorem hostReadLine_next {s t : State} {r : HostReg} (h : hostReadLine s r = .next t) : ∃ v, t = s.note r v := by
  cases hv : s.hostRead r with
  | none => rw [hostReadLine_none hv] at h; cases h
  | some v => exact ⟨v, by rw [hostReadLine_some hv] at h; exact (Host.Outcome.next.inj h).symm⟩

theorem hostReadLine_refused_iff {s : State} {r : HostReg} :
    (∃ e, hostReadLine s r = .refused e) ↔ s.hostRead r = none := by
  cases hv : s.hostRead r with
  | none => simp [hostReadLine_none hv]
  | some v => simp [hostReadLine_some hv]

theorem hostWait_of_done {s : State} (h : s.done = true) (rest : List HostLine) :
    hostWait s rest = .next (s.setScript rest) := by
  simp [hostWait, h]

theorem hostWait_of_not_done {s : State} (h : s.done = false) (rest : List HostLine) : hostWait s rest = seqStep s := by
  simp [hostWait, h]

/-- A read does not depend on the lines the host still has (R28). -/
@[simp] theorem State.hostRead_setScript (s : State) (ls : List HostLine) (r : HostReg) :
    (s.setScript ls).hostRead r = s.hostRead r := by
  cases r <;> rfl

/-- The second write of a value changes nothing (R35). -/
@[simp] theorem State.setOperand_setOperand (s : State) (r : OperandReg) (v : Word) :
    (s.setOperand r v).setOperand r v = s.setOperand r v := by
  cases r <;> rfl

@[simp] theorem State.callView_setOperand (s : State) (r : OperandReg) (v : Word) :
    (s.setOperand r v).callView = s.callView := by
  cases r <;> rfl

@[simp] theorem State.callView_setScript (s : State) (ls : List HostLine) : (s.setScript ls).callView = s.callView := rfl

/-! ### STATUS -/

/-- The layout of R15 as a number, on loose bits. -/
theorem toNat_statusBits : ∀ (e : BitVec 2) (rzv rxv done busy : Bool),
    ((0 : BitVec 2) ++ e ++ BitVec.ofBool rzv ++ BitVec.ofBool rxv ++ BitVec.ofBool done ++ BitVec.ofBool busy).toNat =
      busy.toNat + 2 * done.toNat + 4 * rxv.toNat + 8 * rzv.toNat + 16 * e.toNat := by
  decide

/-- STATUS as the number its bits spell (R15). -/
theorem State.toNat_statusByte (s : State) :
    s.statusByte.toNat = s.busy.toNat + 2 * s.done.toNat + 4 * s.rxv.toNat + 8 * s.rzv.toNat + 16 * s.err.code.toNat :=
  toNat_statusBits _ _ _ _ _

/-! ### The sequencer's turn -/

theorem State.busy_eq_true {s : State} : s.busy = true ↔ s.seq ≠ .idle := by
  rw [← Bool.not_eq_false, Ne, State.busy_eq_false]

theorem seqStep_of_idle {s : State} (h : s.seq = .idle) : seqStep s = .next s := by
  simp only [seqStep, h]

/-- The state after the ITER step on the working registers `r` (R79). -/
def State.afterIter (s : State) (r : LadderRegs) : State :=
  (s.setIter (s.iter + 1)).setSeq
    (if s.iter.toNat + 1 = curve.nbits then .final (r.iterate (ladderBit r.kl s.iter.toNat))
     else .loop (r.iterate (ladderBit r.kl s.iter.toNat)))

theorem seqStep_of_loop {s : State} {r : LadderRegs} (hs : s.seq = .loop r) (hlt : s.iter.toNat < curve.nbits) :
    seqStep s = .next (s.afterIter r) := by
  simp only [seqStep, hs, iterStep, if_pos hlt, State.afterIter]

/-- ITER is counted up without wrapping (R17). -/
theorem State.toNat_afterIter_iter {s : State} (hlt : s.iter.toNat < curve.nbits) (r : LadderRegs) :
    (s.afterIter r).iter.toNat = s.iter.toNat + 1 := by
  rw [curve_nbits_eq] at hlt
  simp only [State.afterIter, State.setSeq_iter, State.setIter_iter]
  bv_omega

theorem State.afterIter_seq_loop {s : State} (h : s.iter.toNat + 1 ≠ curve.nbits) (r : LadderRegs) :
    (s.afterIter r).seq = .loop (r.iterate (ladderBit r.kl s.iter.toNat)) := by
  simp [State.afterIter, h]

theorem State.afterIter_seq_final {s : State} (h : s.iter.toNat + 1 = curve.nbits) (r : LadderRegs) :
    (s.afterIter r).seq = .final (r.iterate (ladderBit r.kl s.iter.toNat)) := by
  simp [State.afterIter, h]

theorem State.busy_afterIter (s : State) (r : LadderRegs) : (s.afterIter r).busy = true := by
  rw [State.busy_eq_true]
  by_cases h : s.iter.toNat + 1 = curve.nbits
  · simp [State.afterIter_seq_final h]
  · simp [State.afterIter_seq_loop h]

/-- An ITER step leaves what STATUS reads (R79). -/
theorem State.statusByte_afterIter {s : State} (hb : s.busy = true) (r : LadderRegs) :
    (s.afterIter r).statusByte = s.statusByte := by
  rw [State.statusByte, s.busy_afterIter r, State.statusByte, hb]
  rfl

/-- A sequencer's turn is never refused. -/
theorem seqStep_ne_refused (s : State) (e : Refusal) : seqStep s ≠ .refused e := by
  intro h
  unfold seqStep at h
  split at h
  case h_2 r _ =>
    unfold iterStep at h
    split at h <;> cases h
  case h_6 x z _ =>
    unfold affStep at h
    split at h <;> cases h
  all_goals cases h

/-- One turn more at the end of a run. -/
theorem seqRun_succ_last {n : Nat} {s t : State} (h : seqRun n s = .next t) : seqRun (n + 1) s = seqStep t := by
  rw [seqRun_add, h]
  cases ht : seqStep t <;> simp only [seqRun, ht]

/-- `j` iterations of a running ladder, one after the other: ITER counts them and STATUS stays (R17, R93). -/
theorem seqRun_of_loop {s : State} {r : LadderRegs} (hs : s.seq = .loop r) (j : Nat)
    (hj : s.iter.toNat + j ≤ curve.nbits) :
    ∃ v, seqRun j s = .next v ∧ v.iter.toNat = s.iter.toNat + j ∧ v.statusByte = s.statusByte ∧
      (s.iter.toNat + j < curve.nbits → ∃ r', v.seq = .loop r') := by
  induction j with
  | zero => exact ⟨s, rfl, rfl, rfl, fun _ => ⟨r, hs⟩⟩
  | succ j ih =>
    obtain ⟨v, hrun, hiter, hstatus, hloop⟩ := ih (by omega)
    obtain ⟨r', hv⟩ := hloop (by omega)
    have hlt : v.iter.toNat < curve.nbits := by omega
    have hbusy : v.busy = true := State.busy_eq_true.2 (by simp [hv])
    refine ⟨v.afterIter r', ?_, ?_, ?_, fun hmore => ⟨_, State.afterIter_seq_loop (by omega) r'⟩⟩
    · rw [seqRun_succ_last hrun, seqStep_of_loop hv hlt]
    · rw [State.toNat_afterIter_iter hlt]; omega
    · rw [State.statusByte_afterIter hbusy, hstatus]

/-! ### START -/

theorem execMult_next {s t : State} (hs : s.seq = .idle) (h : execMult s = .next t) :
    ∃ x n, t = s.accept (.loop (LadderRegs.seed (reduceWord x) (low255 n))) := by
  rw [execMult, whenIdle_of_idle hs] at h
  obtain ⟨x, _, h⟩ := withOperand_next h
  obtain ⟨n, _, h⟩ := withOperand_next h
  exact ⟨x, n, (Host.Outcome.next.inj h).symm⟩

theorem execDbl_next {s t : State} (hs : s.seq = .idle) (h : execDbl s = .next t) :
    ∃ x z, t = s.accept (.execDbl (reduceWord x) (reduceWord z)) := by
  rw [execDbl, whenIdle_of_idle hs] at h
  obtain ⟨x, _, h⟩ := withOperand_next h
  obtain ⟨z, _, h⟩ := withOperand_next h
  exact ⟨x, z, (Host.Outcome.next.inj h).symm⟩

theorem execDadd_next {s t : State} (hs : s.seq = .idle) (h : execDadd s = .next t) :
    ∃ x z a b, t = s.accept (.execDadd (reduceWord x) (reduceWord z) (reduceWord a) (reduceWord b)) := by
  rw [execDadd, whenIdle_of_idle hs] at h
  obtain ⟨x, _, h⟩ := withOperand_next h
  obtain ⟨z, _, h⟩ := withOperand_next h
  obtain ⟨a, _, h⟩ := withOperand_next h
  obtain ⟨b, _, h⟩ := withOperand_next h
  exact ⟨x, z, a, b, (Host.Outcome.next.inj h).symm⟩

theorem execAff_next {s t : State} (hs : s.seq = .idle) (h : execAff s = .next t) :
    ∃ x z, t = s.accept (.execAff (reduceWord x) (reduceWord z)) := by
  rw [execAff, whenIdle_of_idle hs] at h
  obtain ⟨x, _, h⟩ := withOperand_next h
  obtain ⟨z, _, h⟩ := withOperand_next h
  exact ⟨x, z, (Host.Outcome.next.inj h).symm⟩

/-- An operand read is refused where there is no value, or where what follows it is (R23). -/
theorem withOperand_refused_iff {s : State} {r : OperandReg} {go : Word → Outcome} {p : Prop}
    (hgo : ∀ v, (∃ e, go v = .refused e) ↔ p) :
    (∃ e, withOperand s r go = .refused e) ↔ s.operand r = none ∨ p := by
  cases hr : s.operand r with
  | none => simp [withOperand_none hr]
  | some v => simp [withOperand_some hr, hgo]

/-- A START is refused exactly in IDLE where a register the command reads holds no value (R23, R43). -/
theorem exec_refused_iff {i : Instr} {s : State} :
    (∃ e, exec i s = .refused e) ↔ s.phase = .idle ∧ ∃ r ∈ need i, s.operand r = none := by
  rw [State.phase_eq_idle]
  by_cases hs : s.seq = .idle
  · have haccept (q : Sequencer) : (∃ e, (.next (s.accept q) : Outcome) = .refused e) ↔ False := by simp
    cases i <;> simp only [exec, execMult, execDbl, execDadd, execAff, whenIdle_of_idle hs]
    case dadd =>
      exact (withOperand_refused_iff fun _ => withOperand_refused_iff fun _ => withOperand_refused_iff fun _ =>
        withOperand_refused_iff fun _ => haccept _).trans (by simp [need, hs])
    all_goals
      exact (withOperand_refused_iff fun _ => withOperand_refused_iff fun _ => haccept _).trans (by simp [need, hs])
  · cases i <;> simp [exec, execMult, execDbl, execDadd, execAff, whenIdle_of_busy hs, hs]

end Sys2Proof.Machine
end

section
/-! SUPPORT. The invariant: what it says per phase, that START, every sequencer step and every host line keep it, and that
it holds after RESET (spec/10_state.md R13 to R18, R22; spec/60_exceptions.md R102). -/

namespace Sys2Proof.Machine

/-! ### The sequencer's part, per phase -/

theorem State.seqInv_of_idle {s : State} (h : s.seq = .idle) :
    s.SeqInv ↔ s.iter.toNat = 0 ∨ s.iter.toNat = curve.nbits := by
  simp only [State.SeqInv, h]

theorem State.seqInv_of_loop {s : State} {r : LadderRegs} (h : s.seq = .loop r) :
    s.SeqInv ↔ s.iter.toNat < curve.nbits ∧ r.Canon ∧
      r.swap = (if s.iter.toNat = 0 then false else r.kl.getLsbD (curve.nbits - s.iter.toNat)) := by
  simp only [State.SeqInv, h]

theorem State.seqInv_of_final {s : State} {r : LadderRegs} (h : s.seq = .final r) :
    s.SeqInv ↔ s.iter.toNat = curve.nbits ∧ r.Canon ∧ r.swap = r.kl.getLsbD 0 := by
  simp only [State.SeqInv, h]

theorem State.seqInv_of_execDbl {s : State} {x z : FieldElt} (h : s.seq = .execDbl x z) :
    s.SeqInv ↔ s.iter.toNat = 0 ∧ Canonical x ∧ Canonical z := by
  simp only [State.SeqInv, h]

theorem State.seqInv_of_execDadd {s : State} {x z a b : FieldElt} (h : s.seq = .execDadd x z a b) :
    s.SeqInv ↔ s.iter.toNat = 0 ∧ Canonical x ∧ Canonical z ∧ Canonical a ∧ Canonical b := by
  simp only [State.SeqInv, h]

theorem State.seqInv_of_execAff {s : State} {x z : FieldElt} (h : s.seq = .execAff x z) :
    s.SeqInv ↔ s.iter.toNat = 0 ∧ Canonical x ∧ Canonical z := by
  simp only [State.SeqInv, h]

/-- Outside LOOP, ITER is 0 or 255: in particular before any step that ends a call (R17). -/
theorem State.Inv.iter_zero_or_nbits {s : State} (h : s.Inv) (hloop : ∀ r, s.seq ≠ .loop r) :
    s.iter.toNat = 0 ∨ s.iter.toNat = curve.nbits := by
  have hseq := h.seq
  cases hs : s.seq with
  | idle => exact (State.seqInv_of_idle hs).1 hseq
  | loop r => exact absurd hs (hloop r)
  | final r => exact .inr ((State.seqInv_of_final hs).1 hseq).1
  | execDbl x z => exact .inl ((State.seqInv_of_execDbl hs).1 hseq).1
  | execDadd x z a b => exact .inl ((State.seqInv_of_execDadd hs).1 hseq).1
  | execAff x z => exact .inl ((State.seqInv_of_execAff hs).1 hseq).1

/-! ### Canonical values -/

theorem canonicalResult_none : CanonicalResult none := by
  intro w hw
  cases hw

theorem canonicalResult_zext256 {a : FieldElt} (h : Canonical a) : CanonicalResult (some (zext256 a)) := by
  intro w hw
  obtain rfl := Option.mem_some.1 hw
  rwa [zext256_toNat]

theorem canonical_zero : Canonical 0 := P_pos

theorem canonical_one : Canonical 1 := P_prime.one_lt

theorem LadderRegs.seed_canon {x : FieldElt} (h : Canonical x) (kl : BitVec 255) : (LadderRegs.seed x kl).Canon :=
  ⟨h, canonical_one, canonical_zero, h, canonical_one⟩

/-- The pair the FINAL step publishes is one of the two accumulators (R80). -/
theorem LadderRegs.result_canonical {r : LadderRegs} (h : r.Canon) : Canonical r.result.1 ∧ Canonical r.result.2 := by
  rw [LadderRegs.result]
  cases r.swap
  · exact ⟨h.x2, h.z2⟩
  · exact ⟨h.x3, h.z3⟩

theorem inverseOf_of_canonical {z : FieldElt} (hz : Canonical z) (hne : z ≠ 0) : inverseOf (z.toNat : Int) ≠ none := by
  have hpos : z.toNat ≠ 0 := fun h => hne (BitVec.eq_of_toNat_eq h)
  have hmod : (z.toNat : Int) % (P : Int) ≠ 0 := by
    rw [Int.emod_eq_of_lt (by omega) (by exact_mod_cast hz)]
    exact_mod_cast hpos
  simp [inverseOf, hmod]

theorem affine_ok_canonical {x z v : FieldElt} (h : affine x z = .ok v) : Canonical v := by
  unfold affine at h
  split at h
  · cases h
  · split at h
    · cases h
    · rw [← Except.ok.inj h]
      exact fmul_canonical _ _

/-- The two errors of an affine recovery (R60, R61, R100). -/
theorem affine_error_cases {x z : FieldElt} {e : ErrCode} (h : affine x z = .error e) :
    e = .degenerateRatio ∨ (e = .inversionOfZero ∧ z ≠ 0 ∧ inverseOf (z.toNat : Int) = none) := by
  unfold affine at h
  split at h
  case isTrue => exact .inl (Except.error.inj h).symm
  case isFalse hz =>
    split at h
    case h_1 hinv => exact .inr ⟨(Except.error.inj h).symm, hz, hinv⟩
    case h_2 => cases h

theorem affine_error_ne_none {x z : FieldElt} {e : ErrCode} (h : affine x z = .error e) : e ≠ .none := by
  rcases affine_error_cases h with rfl | ⟨rfl, _⟩ <;> simp

/-- On a canonical denominator the field unit is never asked to invert zero (R100). -/
theorem affine_error_of_canonical {x z : FieldElt} {e : ErrCode} (hz : Canonical z) (h : affine x z = .error e) :
    e = .degenerateRatio := by
  rcases affine_error_cases h with he | ⟨_, hne, hinv⟩
  · exact he
  · exact absurd hinv (inverseOf_of_canonical hz hne)

/-! ### STATUS -/

theorem State.StatusInv.accept (s : State) (q : Sequencer) : (s.accept q).StatusInv := by
  constructor <;> simp

theorem State.StatusInv.completeRatio (s : State) (p : Ratio) : (s.completeRatio p).StatusInv := by
  constructor <;> simp [State.busy_eq_true]

theorem State.StatusInv.completeAffine (s : State) (x : FieldElt) : (s.completeAffine x).StatusInv := by
  constructor <;> simp [State.busy_eq_true]

theorem State.StatusInv.raise_degenerateRatio (s : State) : (s.raise .degenerateRatio).StatusInv := by
  constructor <;> simp [State.busy_eq_true]

theorem State.StatusInv.resetCore (s : State) : s.resetCore.StatusInv := by
  constructor <;> simp

/-- An iteration leaves every bit of STATUS and both result registers as they are (R79). -/
theorem State.StatusInv.afterIter {s : State} (h : s.StatusInv) (hb : s.busy = true) (r : LadderRegs) :
    (s.afterIter r).StatusInv :=
  ⟨fun _ => h.busy_done hb, h.err_done, h.rxv_done, h.rzv_rxv, h.done_rxv, h.rxv_rx, h.rzv_rz, h.err_code⟩

/-! ### What keeps the invariant -/

/-- The invariant does not read the operand registers, the host's lines or its notes. -/
theorem State.Inv.withHost {s : State} (h : s.Inv) (a b c d k : Option Word) (ls : List HostLine)
    (ns : List (HostReg × Word)) :
    ({ s with opa := a, opb := b, opc := c, opd := d, k := k, script := ls, seen := ns } : State).Inv := by
  obtain ⟨hseq, ⟨hbusy, herr, hrxv, hrzv, hdone, hrx, hrz, hcode⟩, hcrx, hcrz⟩ := h
  exact ⟨hseq, ⟨hbusy, herr, hrxv, hrzv, hdone, hrx, hrz, hcode⟩, hcrx, hcrz⟩

theorem State.Inv.setScript {s : State} (h : s.Inv) (ls : List HostLine) : (s.setScript ls).Inv :=
  h.withHost s.opa s.opb s.opc s.opd s.k ls s.seen

theorem State.Inv.note {s : State} (h : s.Inv) (r : HostReg) (v : Word) : (s.note r v).Inv :=
  h.withHost s.opa s.opb s.opc s.opd s.k s.script ((r, v) :: s.seen)

theorem State.Inv.setOperand {s : State} (h : s.Inv) (r : OperandReg) (v : Word) : (s.setOperand r v).Inv := by
  cases r
  case opa => exact h.withHost (some v) s.opb s.opc s.opd s.k s.script s.seen
  case opb => exact h.withHost s.opa (some v) s.opc s.opd s.k s.script s.seen
  case opc => exact h.withHost s.opa s.opb (some v) s.opd s.k s.script s.seen
  case opd => exact h.withHost s.opa s.opb s.opc (some v) s.k s.script s.seen
  case k => exact h.withHost s.opa s.opb s.opc s.opd (some v) s.script s.seen

/-- RESET establishes the invariant (R29, R115). -/
theorem State.inv_resetCore (s : State) : s.resetCore.Inv :=
  ⟨.inl rfl, .resetCore s, canonicalResult_none, canonicalResult_none⟩

theorem State.inv_accept {s : State} {q : Sequencer} (h : (s.accept q).SeqInv) : (s.accept q).Inv :=
  ⟨h, .accept s q, canonicalResult_none, canonicalResult_none⟩

/-- Whatever the host wrote, START captures canonical values (R22, R43). -/
theorem exec_keeps_inv {i : Instr} {s t : State} (hinv : s.Inv) (h : exec i s = .next t) : t.Inv := by
  rcases exec_next h with ⟨_, rfl⟩ | ⟨hs, _⟩
  · exact hinv
  cases i with
  | mult =>
    obtain ⟨x, n, rfl⟩ := execMult_next hs h
    exact State.inv_accept ((State.seqInv_of_loop rfl).2
      ⟨by simp [curve_nbits_eq], LadderRegs.seed_canon (reduceWord_canonical x) _, rfl⟩)
  | dbl =>
    obtain ⟨x, z, rfl⟩ := execDbl_next hs h
    exact State.inv_accept ((State.seqInv_of_execDbl rfl).2 ⟨rfl, reduceWord_canonical x, reduceWord_canonical z⟩)
  | dadd =>
    obtain ⟨x, z, a, b, rfl⟩ := execDadd_next hs h
    exact State.inv_accept ((State.seqInv_of_execDadd rfl).2
      ⟨rfl, reduceWord_canonical x, reduceWord_canonical z, reduceWord_canonical a, reduceWord_canonical b⟩)
  | aff =>
    obtain ⟨x, z, rfl⟩ := execAff_next hs h
    exact State.inv_accept ((State.seqInv_of_execAff rfl).2 ⟨rfl, reduceWord_canonical x, reduceWord_canonical z⟩)

/-- An iteration: ITER goes up by one, and SWAP becomes the bit just processed, which the new ITER names as the one of the
iteration before (R75, R79). -/
theorem State.Inv.afterIter {s : State} {r : LadderRegs} (h : s.Inv) (hs : s.seq = .loop r) : (s.afterIter r).Inv := by
  obtain ⟨hlt, hcanon, _⟩ := (State.seqInv_of_loop hs).1 h.seq
  have hiter := State.toNat_afterIter_iter hlt r
  have hcanon' := LadderRegs.iterate_canon hcanon (ladderBit r.kl s.iter.toNat)
  have hbusy : s.busy = true := State.busy_eq_true.2 (by simp [hs])
  refine ⟨?_, h.status.afterIter hbusy r, h.rx, h.rz⟩
  by_cases hlast : s.iter.toNat + 1 = curve.nbits
  · have hzero : 254 - s.iter.toNat = 0 := by rw [curve_nbits_eq] at hlast; omega
    refine (State.seqInv_of_final (State.afterIter_seq_final hlast r)).2 ⟨by omega, hcanon', ?_⟩
    simp only [LadderRegs.iterate, ladderBit, hzero]
  · have hbit : 254 - s.iter.toNat = curve.nbits - (s.iter.toNat + 1) := by rw [curve_nbits_eq]; omega
    refine (State.seqInv_of_loop (State.afterIter_seq_loop hlast r)).2 ⟨by omega, hcanon', ?_⟩
    rw [hiter, if_neg (Nat.succ_ne_zero _)]
    simp only [LadderRegs.iterate, ladderBit, hbit]

/-- A ratio result on canonical values, at a point where ITER is 0 or 255. -/
theorem State.inv_completeRatio {s : State} {p : Ratio} (hiter : s.iter.toNat = 0 ∨ s.iter.toNat = curve.nbits)
    (hp : Canonical p.1 ∧ Canonical p.2) : (s.completeRatio p).Inv :=
  ⟨(State.seqInv_of_idle rfl).2 hiter, .completeRatio s p, canonicalResult_zext256 hp.1, canonicalResult_zext256 hp.2⟩

/-- The sequencer's turn keeps the invariant (R18). -/
theorem seqStep_keeps_inv {s t : State} (hinv : s.Inv) (h : seqStep s = .next t) : t.Inv := by
  rcases seqStep_next h with ⟨_, rfl⟩ | ⟨r, hs, _, rfl⟩ | ⟨r, hs, rfl⟩ | ⟨x, z, hs, rfl⟩ | ⟨x, z, a, b, hs, rfl⟩ |
    ⟨x, z, v, hs, hv, rfl⟩ | ⟨x, z, e, hs, he, rfl⟩
  · exact hinv
  · exact hinv.afterIter hs
  · obtain ⟨_, hcanon, _⟩ := (State.seqInv_of_final hs).1 hinv.seq
    exact State.inv_completeRatio (hinv.iter_zero_or_nbits (by simp [hs])) (LadderRegs.result_canonical hcanon)
  · exact State.inv_completeRatio (hinv.iter_zero_or_nbits (by simp [hs])) (double_canonical x z)
  · exact State.inv_completeRatio (hinv.iter_zero_or_nbits (by simp [hs])) (diffAdd_canonical x z a b)
  · exact ⟨(State.seqInv_of_idle rfl).2 (hinv.iter_zero_or_nbits (by simp [hs])), .completeAffine s v,
      canonicalResult_zext256 (affine_ok_canonical hv), canonicalResult_none⟩
  · obtain ⟨_, _, hz⟩ := (State.seqInv_of_execAff hs).1 hinv.seq
    obtain rfl := affine_error_of_canonical hz he
    exact ⟨(State.seqInv_of_idle rfl).2 (hinv.iter_zero_or_nbits (by simp [hs])), .raise_degenerateRatio s,
      canonicalResult_none, canonicalResult_none⟩

/-- Every event of the machine keeps the invariant. -/
theorem step_keeps_inv {s t : State} (hinv : s.Inv) (h : step s = .next t) : t.Inv := by
  cases hs : s.script with
  | nil =>
    rw [step_of_nil hs] at h
    exact seqStep_keeps_inv hinv h
  | cons l rest =>
    cases l with
    | wr r v =>
      rw [step_of_wr hs] at h
      obtain ⟨w, rfl⟩ := hostWrite_next h
      exact (hinv.setScript rest).setOperand r w
    | start code =>
      rw [step_of_start hs] at h
      exact exec_keeps_inv (hinv.setScript rest) h
    | wait =>
      rw [step_of_wait hs] at h
      cases hdone : s.done with
      | true =>
        rw [hostWait_of_done hdone] at h
        exact Host.Outcome.next.inj h ▸ hinv.setScript rest
      | false =>
        rw [hostWait_of_not_done hdone] at h
        exact seqStep_keeps_inv hinv h
    | rd r =>
      rw [step_of_rd hs] at h
      obtain ⟨v, rfl⟩ := hostReadLine_next h
      exact (hinv.setScript rest).note r v
    | reset =>
      rw [step_of_reset hs] at h
      exact Host.Outcome.next.inj h ▸ State.inv_resetCore _
    | tick =>
      rw [step_of_tick hs] at h
      exact seqStep_keeps_inv (hinv.setScript rest) h

/-- Settles O29, by the cases of the next event: START, the sequencer's turn and each host line keep the invariant. -/
theorem stepKeepsInvariant : Obligations.StepKeepsInvariant :=
  fun _ _ hinv h => step_keeps_inv hinv h

/-- Settles O28: the state after reset is what RESET makes of it. -/
theorem invariantAtReset : Obligations.InvariantAtReset :=
  State.inv_resetCore State.reset

end Sys2Proof.Machine
end

section
/-! SUPPORT. The statements of spec/10_state.md: START and the sequencer's turn, ITER, STATUS, the host's reads and writes,
the refused moves and the state after reset. -/

namespace Sys2Proof.Machine

/-! ### The schedule and the state after reset -/

/-- Settles O6: the equations of `step` and `seqStep` at these three cases. -/
theorem sequencerTurns : Obligations.SequencerTurns :=
  ⟨fun _ h => step_of_nil h, fun _ _ h => step_of_tick h, fun _ h => seqStep_of_idle (State.phase_eq_idle.1 h)⟩

/-- Settles O25: every entry of the table is the reset state's own field. -/
theorem resetStateIsTheTable : Obligations.ResetStateIsTheTable := by
  refine ⟨rfl, rfl, by decide, rfl, fun r => ?_, rfl, rfl, rfl, rfl⟩
  cases r <;> rfl

/-! ### START -/

/-- Settles O8: a START that answers a next state was ignored or accepted, and `accept` writes none of these fields. -/
theorem startFrame : Obligations.StartFrame := by
  intro i s t h
  rcases exec_next h with ⟨_, rfl⟩ | ⟨hs, q, _, rfl⟩
  · exact ⟨rfl, rfl, rfl, rfl, rfl, rfl, rfl, fun _ => rfl⟩
  · exact ⟨rfl, rfl, rfl, rfl, rfl, rfl, rfl, fun hbusy => absurd hs (State.busy_eq_true.1 hbusy)⟩

/-! ### ITER -/

theorem exec_iter_of_idle {i : Instr} {s t : State} (hidle : s.phase = .idle) (h : exec i s = .next t) : t.iter = 0 := by
  rcases exec_next h with ⟨hs, _⟩ | ⟨_, q, _, rfl⟩
  · exact absurd (State.phase_eq_idle.1 hidle) hs
  · rfl

theorem State.phase_eq_loop {s : State} : s.phase = .loop ↔ ∃ r, s.seq = .loop r := by
  unfold State.phase
  split <;> simp_all

/-- The one sequencer step that writes ITER is the ITER step (R17). -/
theorem seqStep_iter {s t : State} (h : seqStep s = .next t) :
    t.iter.toNat = s.iter.toNat + (if s.phase = .loop then 1 else 0) := by
  rcases seqStep_next h with ⟨hs, rfl⟩ | ⟨r, hs, hlt, rfl⟩ | ⟨r, hs, rfl⟩ | ⟨x, z, hs, rfl⟩ | ⟨x, z, a, b, hs, rfl⟩ |
    ⟨x, z, v, hs, _, rfl⟩ | ⟨x, z, e, hs, _, rfl⟩
  case inr.inl =>
    rw [if_pos (State.phase_eq_loop.2 ⟨r, hs⟩)]
    exact State.toNat_afterIter_iter hlt r
  all_goals
    rw [if_neg (by simp [State.phase_eq_loop, hs])]
    rfl

/-- A write or a read leaves ITER alone (R17). -/
theorem step_iter_of_write_or_read {s t : State} {l : HostLine} {rest : List HostLine} (hs : s.script = l :: rest)
    (h : step s = .next t) (hstart : ∀ code, l ≠ .start code) (hreset : l ≠ .reset) (htick : l ≠ .tick)
    (hwait : l ≠ .wait) : t.iter = s.iter := by
  cases l with
  | wr r v =>
    rw [step_of_wr hs] at h
    obtain ⟨w, rfl⟩ := hostWrite_next h
    simp
  | rd r =>
    rw [step_of_rd hs] at h
    obtain ⟨v, rfl⟩ := hostReadLine_next h
    simp
  | start code => exact absurd rfl (hstart code)
  | reset => exact absurd rfl hreset
  | tick => exact absurd rfl htick
  | wait => exact absurd rfl hwait

/-- Settles O18: START writes 0, the ITER step adds one, writes and reads do not touch ITER, and a MULT call's first 255
turns are all iterations. -/
theorem iterCountsIterations : Obligations.IterCountsIterations := by
  refine ⟨fun _ _ _ => exec_iter_of_idle, fun _ _ _ => seqStep_iter, fun _ _ _ _ => step_iter_of_write_or_read, ?_⟩
  intro s t j hidle h hj
  obtain ⟨x, n, rfl⟩ := execMult_next (State.phase_eq_idle.1 hidle) h
  obtain ⟨v, hrun, hiter, hstatus, _⟩ := seqRun_of_loop (State.accept_seq s _) j (by simpa [curve_nbits_eq] using hj)
  exact ⟨v, hrun, by simpa using hiter, by rw [hstatus, State.statusByte_accept _ (by simp)]⟩

/-! ### Completion -/

/-- Settles O19, by what the sequencer's turn can do: idle and ITER leave results and flags, the other steps end the call. -/
theorem completionIsAtomic : Obligations.CompletionIsAtomic := by
  intro s t h
  rcases seqStep_next h with ⟨_, rfl⟩ | ⟨r, hs, _, rfl⟩ | ⟨r, hs, rfl⟩ | ⟨x, z, hs, rfl⟩ | ⟨x, z, a, b, hs, rfl⟩ |
    ⟨x, z, v, hs, _, rfl⟩ | ⟨x, z, e, hs, he, rfl⟩
  case inl => simp
  case inr.inl =>
    have hbusy : s.busy = true := State.busy_eq_true.2 (by simp [hs])
    exact ⟨rfl, rfl, rfl, rfl, rfl, rfl, rfl, .inl ⟨rfl, rfl, rfl, rfl, rfl, rfl, (s.busy_afterIter r).trans hbusy.symm⟩⟩
  case inr.inr.inr.inr.inr.inr =>
    simp [State.busy_eq_true, State.busy_eq_false, hs, affine_error_ne_none he]
  all_goals simp [State.busy_eq_true, State.busy_eq_false, hs]

/-! ### STATUS -/

theorem State.StatusInv.of_not_done {s : State} (h : s.StatusInv) (hdone : s.done = false) :
    s.rxv = false ∧ s.rzv = false ∧ s.err = .none := by
  have hrxv : s.rxv = false := by simpa [hdone] using mt h.rxv_done
  have hrzv : s.rzv = false := by simpa [hrxv] using mt h.rzv_rxv
  exact ⟨hrxv, hrzv, by simpa [hdone] using mt h.err_done⟩

theorem State.StatusInv.busy_of_done {s : State} (h : s.StatusInv) (hdone : s.done = true) : s.busy = false := by
  simpa [hdone] using mt h.busy_done

/-- The values of STATUS that R15 lists as reachable: by DONE, then BUSY or ERR, then RZV, the other bits are fixed. -/
theorem State.StatusInv.statusByte_mem {s : State} (h : s.StatusInv) :
    s.statusByte ∈ [0x00, 0x01, 0x0E, 0x06, 0x12] := by
  cases hdone : s.done with
  | false =>
    obtain ⟨hrxv, hrzv, herr⟩ := h.of_not_done hdone
    cases hbusy : s.busy <;> simp [State.statusByte, ErrCode.code, hdone, hrxv, hrzv, herr, hbusy]
  | true =>
    have hbusy := h.busy_of_done hdone
    rcases h.err_code with herr | herr
    · have hrxv := h.done_rxv hdone herr
      cases hrzv : s.rzv <;> simp [State.statusByte, ErrCode.code, hdone, hrxv, hrzv, herr, hbusy]
    · obtain ⟨_, hrxv, hrzv⟩ := h.err_done (by simp [herr])
      simp [State.statusByte, ErrCode.code, hdone, hrxv, hrzv, herr, hbusy]

/-- Settles O30, from the STATUS part of the invariant. -/
theorem statusValuesReachable : Obligations.StatusValuesReachable := by
  intro s hinv
  refine ⟨hinv.status.statusByte_mem, ?_⟩
  rcases hinv.status.err_code with herr | herr <;> simp [herr]

/-! ### The host's reads and writes -/

/-- Settles O22: `setOperand` answers the value in its own register and leaves every other field. -/
theorem writeReplacesOneRegister : Obligations.WriteReplacesOneRegister := by
  intro s r v rest hs
  exact ⟨(s.setScript rest).setOperand r v, step_of_wr hs, by simp, fun q hq => by simp [hq], by simp⟩

/-- A read of STATUS returns the number its bits spell (R15, R28). -/
theorem State.hostRead_status (s : State) :
    s.hostRead .status = some (BitVec.ofNat 256 (s.busy.toNat + 2 * s.done.toNat + 4 * s.rxv.toNat + 8 * s.rzv.toNat +
      16 * s.err.code.toNat)) := by
  rw [← State.toNat_statusByte, State.hostRead, BitVec.ofNat_toNat]

theorem State.hostRead_iter (s : State) : s.hostRead .iter = some (BitVec.ofNat 256 s.iter.toNat) := by
  rw [State.hostRead, BitVec.ofNat_toNat]

/-- A read line where the register holds a value: noted, and nothing else (R28). -/
theorem step_of_rd_some {s : State} {r : HostReg} {rest : List HostLine} {v : Word} (hs : s.script = .rd r :: rest)
    (hv : s.hostRead r = some v) : step s = .next { s with script := rest, seen := (r, v) :: s.seen } := by
  rw [step_of_rd hs, hostReadLine_some (by rwa [State.hostRead_setScript])]
  rfl

theorem step_of_rd_none {s : State} {r : HostReg} {rest : List HostLine} (hs : s.script = .rd r :: rest)
    (hv : s.hostRead r = none) : step s = .refused (.readNoValue r) := by
  rw [step_of_rd hs, hostReadLine_none (by rwa [State.hostRead_setScript])]

/-- Settles O23: the statement's value is what `hostRead` returns, register by register. -/
theorem readReturnsValueOrIsRefused : Obligations.ReadReturnsValueOrIsRefused := by
  intro s r rest hs value
  have hvalue : s.hostRead r = value := by
    cases r
    case status => exact s.hostRead_status
    case iter => exact s.hostRead_iter
    all_goals rfl
  exact ⟨fun v hv => step_of_rd_some hs (hvalue.trans hv), fun hv => step_of_rd_none hs (hvalue.trans hv)⟩

/-! ### Refused moves -/

theorem State.Inv.hostRead_rx_eq_none_iff {s : State} (h : s.Inv) : s.hostRead .rx = none ↔ s.rxv = false := by
  have hrx := h.status.rxv_rx
  cases hx : s.rx <;> simp_all [State.hostRead]

theorem State.Inv.hostRead_rz_eq_none_iff {s : State} (h : s.Inv) : s.hostRead .rz = none ↔ s.rzv = false := by
  have hrz := h.status.rzv_rz
  cases hx : s.rz <;> simp_all [State.hostRead]

theorem step_refused_iff_of_rd {s : State} {r : HostReg} {rest : List HostLine} (hs : s.script = .rd r :: rest) :
    (∃ e, step s = .refused e) ↔ s.hostRead r = none := by
  rw [step_of_rd hs, hostReadLine_refused_iff, State.hostRead_setScript]

theorem step_refused_iff_of_start {s : State} {code : BitVec 2} {rest : List HostLine}
    (hs : s.script = .start code :: rest) :
    (∃ e, step s = .refused e) ↔ s.phase = .idle ∧ ∃ r ∈ need (decodeCode code), s.operand r = none := by
  rw [step_of_start hs, exec_refused_iff]
  simp [State.phase_eq_idle]

/-- A line that is neither a START nor a read is never refused in a well-formed script (R23, R114). -/
theorem step_ne_refused {s : State} (hwf : scriptWellFormed s.seen.length s.script = true)
    (hstart : ∀ code rest, s.script ≠ .start code :: rest) (hrd : ∀ r rest, s.script ≠ .rd r :: rest) (e : Refusal) :
    step s ≠ .refused e := by
  cases hs : s.script with
  | nil => exact step_of_nil hs ▸ seqStep_ne_refused s e
  | cons l rest =>
    cases l with
    | start code => exact absurd hs (hstart code rest)
    | rd r => exact absurd hs (hrd r rest)
    | wr r v =>
      have hv : sourceWellFormed (s.setScript rest).seen.length v = true := by
        simp only [hs, scriptWellFormed, Bool.and_eq_true] at hwf
        exact hwf.1
      obtain ⟨t, ht⟩ := hostWrite_of_wellFormed hv r
      simp [step_of_wr hs, ht]
    | wait =>
      rw [step_of_wait hs]
      cases hdone : s.done with
      | true => simp [hostWait_of_done hdone]
      | false => exact hostWait_of_not_done hdone rest ▸ seqStep_ne_refused s e
    | reset => simp [step_of_reset hs]
    | tick => exact step_of_tick hs ▸ seqStep_ne_refused _ e

/-- Settles O32: at a START and at a read the refusal is the novalue move itself, and no other line is refused. -/
theorem refusalsAreNovalueMoves : Obligations.RefusalsAreNovalueMoves := by
  intro s hinv hwf
  by_cases hstart : ∃ code rest, s.script = .start code :: rest
  · obtain ⟨code, rest, hs⟩ := hstart
    rw [step_refused_iff_of_start hs]
    simp [hs]
  by_cases hrd : ∃ r rest, s.script = .rd r :: rest
  · obtain ⟨r, rest, hs⟩ := hrd
    rw [step_refused_iff_of_rd hs]
    cases r
    case rx => simp [hs, hinv.hostRead_rx_eq_none_iff]
    case rz => simp [hs, hinv.hostRead_rz_eq_none_iff]
    all_goals simp [hs, State.hostRead]
  · push Not at hstart hrd
    simp [step_ne_refused hwf hstart hrd, hstart, hrd]

end Sys2Proof.Machine
end

section
/-! SUPPORT. The statements of spec/30_encoding.md on the command code: encoding and decoding (R41, R42). -/

namespace Sys2Proof

/-! ### The code and its carrier -/

theorem decode_cons (b : Byte) (rest : List Byte) : decode (b :: rest) = .ok (decodeCode (carriedCode b), rest) := rfl

theorem decodeCode_encodeCode (i : Instr) : decodeCode (encodeCode i) = i := by
  cases i <;> rfl

/-- All four codes are assigned (R42). -/
theorem encodeCode_decodeCode : ∀ code : BitVec 2, encodeCode (decodeCode code) = code := by
  decide

theorem decodeCode_eq_iff {code : BitVec 2} {i : Instr} : decodeCode code = i ↔ code = encodeCode i := by
  constructor
  · rintro rfl
    exact (encodeCode_decodeCode code).symm
  · rintro rfl
    exact decodeCode_encodeCode i

/-- The core sees the two low bits of the carrier, that is the byte modulo 4 (R41). -/
theorem toNat_carriedCode (b : Byte) : (carriedCode b).toNat = b.toNat % 4 := by
  simp [carriedCode]

theorem carriedCode_setWidth (code : BitVec 2) : carriedCode (code.setWidth 8) = code := by
  apply BitVec.eq_of_toNat_eq
  rw [toNat_carriedCode, BitVec.toNat_setWidth]
  omega

theorem decode_cons_eq_ok_iff {b : Byte} {rest : List Byte} {i : Instr} :
    decode (b :: rest) = .ok (i, rest) ↔ b.toNat % 4 = (encodeCode i).toNat := by
  rw [decode_cons, ← toNat_carriedCode, BitVec.toNat_inj, ← decodeCode_eq_iff]
  simp

/-- Settles O2: the two maps between commands and codes are inverse to each other, and the carrier holds the code. -/
theorem decodeInvertsEncode : Obligations.DecodeInvertsEncode := by
  refine ⟨fun i rest _ => ?_, fun _ _ _ => decode_cons_eq_ok_iff, encodeCode_decodeCode, rfl⟩
  rw [encode, List.singleton_append, decode_cons, carriedCode_setWidth, decodeCode_encodeCode]

/-! ### Table words -/

/-- A table word of two bits or more holds its code in its two low bits (R41). -/
theorem carriedCode_tableByte {nbits : Nat} (hbits : 2 ≤ nbits) (w : Nat) :
    carriedCode (BitVec.ofNat 8 (w % 2 ^ nbits)) = BitVec.ofNat 2 w := by
  have hdvd : 4 ∣ 2 ^ nbits := pow_dvd_pow 2 hbits
  apply BitVec.eq_of_toNat_eq
  rw [toNat_carriedCode, BitVec.toNat_ofNat, BitVec.toNat_ofNat, Nat.mod_mod_of_dvd _ (by norm_num),
    Nat.mod_mod_of_dvd _ hdvd]

theorem decodeTableWord_eq {nbits : Nat} (hbits : 2 ≤ nbits) (w : Nat) :
    decodeTableWord nbits w = some (decodeCode (BitVec.ofNat 2 w)) := by
  rw [← carriedCode_tableByte hbits w]
  rfl

/-- Settles O1: a table word decodes as its two low bits, so that each of the seven is a row of R42. -/
theorem tableWordsDecode : Obligations.TableWordsDecode := by
  simp only [Obligations.TableWordsDecode, decodeTableWord_eq (show 2 ≤ 8 by decide),
    decodeTableWord_eq (le_refl 2), Option.some.injEq, decodeCode_eq_iff]
  decide

end Sys2Proof
end

section
/-! SUPPORT. START, an equation per command and what it answers otherwise (spec/30_encoding.md R43), and the placed command
(notes/assumptions/4.md). -/

namespace Sys2Proof.Machine

/-! ### START -/

theorem exec_of_busy {s : State} (hs : s.seq ≠ .idle) (i : Instr) : exec i s = .next s := by
  cases i <;> exact whenIdle_of_busy hs _

theorem exec_mult_of_operands {s : State} {x n : Word} (hs : s.seq = .idle) (hx : s.operand .opa = some x)
    (hn : s.operand .k = some n) :
    exec .mult s = .next (s.accept (.loop (LadderRegs.seed (reduceWord x) (low255 n)))) := by
  rw [exec, execMult, whenIdle_of_idle hs, withOperand_some hx, withOperand_some hn]

theorem exec_dbl_of_operands {s : State} {x z : Word} (hs : s.seq = .idle) (hx : s.operand .opa = some x)
    (hz : s.operand .opb = some z) : exec .dbl s = .next (s.accept (.execDbl (reduceWord x) (reduceWord z))) := by
  rw [exec, execDbl, whenIdle_of_idle hs, withOperand_some hx, withOperand_some hz]

theorem exec_dadd_of_operands {s : State} {x z a b : Word} (hs : s.seq = .idle) (hx : s.operand .opa = some x)
    (hz : s.operand .opb = some z) (ha : s.operand .opc = some a) (hb : s.operand .opd = some b) :
    exec .dadd s =
      .next (s.accept (.execDadd (reduceWord x) (reduceWord z) (reduceWord a) (reduceWord b))) := by
  rw [exec, execDadd, whenIdle_of_idle hs, withOperand_some hx, withOperand_some hz, withOperand_some ha,
    withOperand_some hb]

theorem exec_aff_of_operands {s : State} {x z : Word} (hs : s.seq = .idle) (hx : s.operand .opa = some x)
    (hz : s.operand .opb = some z) : exec .aff s = .next (s.accept (.execAff (reduceWord x) (reduceWord z))) := by
  rw [exec, execAff, whenIdle_of_idle hs, withOperand_some hx, withOperand_some hz]

/-- An accepted command makes the core busy with its own code in OP, whatever else the state held (R16, R43). -/
theorem exec_next_of_idle {i : Instr} {s t : State} (hs : s.seq = .idle) (h : exec i s = .next t) :
    ∃ q, q ≠ .idle ∧ t = s.accept q ∧ t.op = some (encodeCode i) := by
  cases i with
  | mult =>
    obtain ⟨x, n, rfl⟩ := execMult_next hs h
    exact ⟨_, by simp, rfl, rfl⟩
  | dbl =>
    obtain ⟨x, z, rfl⟩ := execDbl_next hs h
    exact ⟨_, by simp, rfl, rfl⟩
  | dadd =>
    obtain ⟨x, z, a, b, rfl⟩ := execDadd_next hs h
    exact ⟨_, by simp, rfl, rfl⟩
  | aff =>
    obtain ⟨x, z, rfl⟩ := execAff_next hs h
    exact ⟨_, by simp, rfl, rfl⟩

/-- The two answers of a START in IDLE whose command reads the registers `rs`: accepted, or refused at one of them that
holds no value (R23, R43). -/
def State.StartAnswer (s : State) (rs : List OperandReg) (out : Outcome) : Prop :=
  (∃ t, out = .next t) ∨ ∃ r ∈ rs, s.operand r = none ∧ out = .refused (.startNoValue r)

theorem withOperand_startAnswer {s : State} {r : OperandReg} {rs : List OperandReg} {go : Word → Outcome} (hr : r ∈ rs)
    (hgo : ∀ v, s.StartAnswer rs (go v)) : s.StartAnswer rs (withOperand s r go) := by
  cases hv : s.operand r with
  | none => exact .inr ⟨r, hr, hv, withOperand_none hv go⟩
  | some v => exact (withOperand_some hv go).symm ▸ hgo v

theorem exec_startAnswer {s : State} (hs : s.seq = .idle) (i : Instr) : s.StartAnswer (need i) (exec i s) := by
  have haccept {rs : List OperandReg} (q : Sequencer) : s.StartAnswer rs (.next (s.accept q)) := .inl ⟨_, rfl⟩
  cases i <;> simp only [exec, execMult, execDbl, execDadd, execAff, whenIdle_of_idle hs]
  case dadd =>
    exact withOperand_startAnswer (by simp [need]) fun _ => withOperand_startAnswer (by simp [need]) fun _ =>
      withOperand_startAnswer (by simp [need]) fun _ => withOperand_startAnswer (by simp [need]) fun _ => haccept _
  all_goals
    exact withOperand_startAnswer (by simp [need]) fun _ => withOperand_startAnswer (by simp [need]) fun _ => haccept _

theorem exec_refused_of_idle {i : Instr} {s : State} (hidle : s.phase = .idle) (hnone : ∃ r ∈ need i, s.operand r = none) :
    ∃ r ∈ need i, s.operand r = none ∧ exec i s = .refused (.startNoValue r) := by
  obtain ⟨e, he⟩ := exec_refused_iff.2 ⟨hidle, hnone⟩
  rcases exec_startAnswer (State.phase_eq_idle.1 hidle) i with ⟨t, ht⟩ | hrefused
  · simp [ht] at he
  · exact hrefused

theorem exec_accepted_of_operands {i : Instr} {s : State} (hs : s.seq = .idle) (hop : ∀ r ∈ need i, s.operand r ≠ none) :
    ∃ t, exec i s = .next t :=
  (exec_startAnswer hs i).resolve_right fun ⟨r, hr, hnone, _⟩ => hop r hr hnone

/-- The scalar as START captures it (R21). -/
theorem low255_eq_ofNat (n : Word) : low255 n = BitVec.ofNat 255 n.toNat :=
  (BitVec.ofNat_toNat 255 n).symm

/-- Settles O7: the answers of START by phase and operands, with the equation of each command. -/
theorem startEventOfEveryCommand : Obligations.StartEventOfEveryCommand := by
  refine ⟨fun i s hbusy => exec_of_busy (mt State.phase_eq_idle.2 hbusy) i, fun i s => exec_refused_of_idle,
    ?mult, ?dbl, ?dadd, ?aff, ?status⟩
  case mult =>
    intro s x n hidle hx hn
    rw [exec_mult_of_operands (State.phase_eq_idle.1 hidle) hx hn, low255_eq_ofNat]
    rfl
  case dbl => exact fun s x z hidle hx hz => exec_dbl_of_operands (State.phase_eq_idle.1 hidle) hx hz
  case dadd =>
    exact fun s x z a b hidle hx hz ha hb => exec_dadd_of_operands (State.phase_eq_idle.1 hidle) hx hz ha hb
  case aff => exact fun s x z hidle hx hz => exec_aff_of_operands (State.phase_eq_idle.1 hidle) hx hz
  case status =>
    intro i s t hidle h
    obtain ⟨q, hq, rfl, hop⟩ := exec_next_of_idle (State.phase_eq_idle.1 hidle) h
    exact ⟨s.statusByte_accept hq, hop⟩

/-! ### The placed command -/

theorem State.setScript_setScript (s : State) (ls ls' : List HostLine) : (s.setScript ls).setScript ls' = s.setScript ls' :=
  rfl

theorem State.setScript_script_self (s : State) : s.setScript s.script = s := rfl

/-- Filling registers takes no value away. -/
theorem State.operand_supply_of_some {s : State} {r : OperandReg} (h : s.operand r ≠ none) (v : Word)
    (rs : List OperandReg) : (s.supply v rs).operand r ≠ none := by
  induction rs generalizing s with
  | nil => exact h
  | cons q rs ih =>
    unfold State.supply
    split
    · refine ih ?_
      rw [State.operand_setOperand]
      split
      · simp
      · exact h
    · exact ih h

theorem State.operand_supply_of_mem (s : State) (v : Word) {r : OperandReg} {rs : List OperandReg} (hr : r ∈ rs) :
    (s.supply v rs).operand r ≠ none := by
  induction rs generalizing s with
  | nil => simp at hr
  | cons q rs ih =>
    unfold State.supply
    rcases List.mem_cons.1 hr with rfl | hr
    · split
      · exact State.operand_supply_of_some (by simp) v rs
      next w hw => exact State.operand_supply_of_some (by simp [hw]) v rs
    · split
      · exact ih _ hr
      · exact ih _ hr

theorem decodeTableWord_eq_tableCode (nbits w : Nat) :
    decodeTableWord nbits w = some (decodeCode (tableCode nbits w)) := rfl

theorem State.withFetchWord_eq (s : State) (nbits w : Nat) : s.withFetchWord nbits w =
    (s.supply 1 (need (decodeCode (tableCode nbits w)))).setScript (.start (tableCode nbits w) :: s.script) := rfl

theorem step_withFetchWord {nbits w : Nat} {i : Instr} (h : decodeTableWord nbits w = some i) (s : State) :
    step (s.withFetchWord nbits w) = exec i (s.supply 1 (need i)) := by
  obtain rfl := Option.some.inj ((decodeTableWord_eq_tableCode nbits w).symm.trans h)
  have hscript := s.supply_script 1 (need (decodeCode (tableCode nbits w)))
  rw [State.withFetchWord_eq, step_of_start (State.setScript_script _ _), State.setScript_setScript, ← hscript,
    State.setScript_script_self]

/-- Settles O4: the equation of `step` at a START line, and the placed word as such a line. -/
theorem stepRunsDecodedCommand : Obligations.StepRunsDecodedCommand :=
  ⟨fun _ _ _ h => step_of_start h, fun s _ _ _ h => step_withFetchWord h s⟩

/-- Settles O5: the placing fills every register the command reads, so that its START is accepted and OP holds its code. -/
theorem placedCommandRunsAtReset : Obligations.PlacedCommandRunsAtReset := by
  intro w _
  have hidle : (State.reset.supply 1 (need (decodeCode (BitVec.ofNat 2 w)))).seq = .idle := State.supply_seq _ _ _
  obtain ⟨t, ht⟩ := exec_accepted_of_operands hidle fun r hr => State.operand_supply_of_mem _ _ hr
  obtain ⟨q, hq, rfl, hop⟩ := exec_next_of_idle hidle ht
  refine ⟨_, (step_withFetchWord (decodeTableWord_eq (by decide) w) _).trans ht, State.busy_accept _ hq, ?_⟩
  rw [hop, encodeCode_decodeCode]

end Sys2Proof.Machine
end

section
/-! SUPPORT. Calls and the host program around them (spec/30_encoding.md R46, R47): the sequencer steps a call has left and
how it ends, what MULT's run computes, and the lines `CALL`, `MOVR` and `MULTAFF`. -/

namespace Sys2Proof.Machine

/-! ### The steps a call has left -/

theorem State.stepsLeft_of_loop {s : State} {r : LadderRegs} (h : s.seq = .loop r) :
    s.stepsLeft = curve.nbits - s.iter.toNat + 1 := by
  simp only [State.stepsLeft, h]

theorem State.stepsLeft_of_final {s : State} {r : LadderRegs} (h : s.seq = .final r) : s.stepsLeft = 1 := by
  simp only [State.stepsLeft, h]

theorem State.stepsLeft_eq_zero {s : State} : s.stepsLeft = 0 ↔ s.seq = .idle := by
  unfold State.stepsLeft
  split <;> simp_all

theorem State.busy_of_stepsLeft_pos {s : State} (h : 0 < s.stepsLeft) : s.busy = true :=
  State.busy_eq_true.2 fun hidle => h.ne' (State.stepsLeft_eq_zero.2 hidle)

/-- Each step of a call is one of those it had left (R18, R121). -/
theorem seqStep_stepsLeft {s t : State} (hbusy : s.busy = true) (h : seqStep s = .next t) :
    t.stepsLeft + 1 = s.stepsLeft := by
  rcases seqStep_next h with ⟨hs, rfl⟩ | ⟨r, hs, hlt, rfl⟩ | ⟨r, hs, rfl⟩ | ⟨x, z, hs, rfl⟩ | ⟨x, z, a, b, hs, rfl⟩ |
    ⟨x, z, v, hs, _, rfl⟩ | ⟨x, z, e, hs, _, rfl⟩
  case inl => exact absurd hs (State.busy_eq_true.1 hbusy)
  case inr.inl =>
    rw [← State.afterIter, State.stepsLeft_of_loop hs]
    by_cases hlast : s.iter.toNat + 1 = curve.nbits
    · rw [State.stepsLeft_of_final (State.afterIter_seq_final hlast r)]
      omega
    · rw [State.stepsLeft_of_loop (State.afterIter_seq_loop hlast r), State.toNat_afterIter_iter hlt]
      omega
  all_goals simp [State.stepsLeft, hs]

/-- While the call goes on, a step leaves DONE alone; the step that ends it sets DONE (R36, R105). -/
theorem seqStep_done {s t : State} (hbusy : s.busy = true) (h : seqStep s = .next t) :
    t.done = if t.busy = true then s.done else true := by
  obtain ⟨-, -, -, -, -, -, -, hkept | hended⟩ := completionIsAtomic s t h
  · obtain ⟨-, -, hdone, -, -, -, htbusy⟩ := hkept
    simp [htbusy, hbusy, hdone]
  · obtain ⟨-, htbusy, hdone, -⟩ := hended
    simp [htbusy, hdone]

theorem seqStep_script {s t : State} (h : seqStep s = .next t) : t.script = s.script := by
  obtain ⟨-, -, -, -, -, hscript, -⟩ := completionIsAtomic s t h
  exact hscript

theorem seqStep_of_final {s : State} {r : LadderRegs} (h : s.seq = .final r) :
    seqStep s = .next (s.completeRatio r.result) := by
  simp only [seqStep, h, finalStep]

theorem seqStep_of_execDbl {s : State} {x z : FieldElt} (h : s.seq = .execDbl x z) :
    seqStep s = .next (s.completeRatio (double x z)) := by
  simp only [seqStep, h, dblStep]

theorem seqStep_of_execDadd {s : State} {x z a b : FieldElt} (h : s.seq = .execDadd x z a b) :
    seqStep s = .next (s.completeRatio (diffAdd x z a b)) := by
  simp only [seqStep, h, daddStep]

theorem seqStep_of_execAff_ok {s : State} {x z v : FieldElt} (h : s.seq = .execAff x z) (hv : affine x z = .ok v) :
    seqStep s = .next (s.completeAffine v) := by
  simp only [seqStep, h, affStep, hv]

theorem seqStep_of_execAff_error {s : State} {x z : FieldElt} {e : ErrCode} (h : s.seq = .execAff x z)
    (he : affine x z = .error e) : seqStep s = .next (s.raise e) := by
  simp only [seqStep, h, affStep, he]

/-- Under the invariant the sequencer's turn always answers a next state: LOOP has iterations left (R121). -/
theorem State.Inv.seqStep_next {s : State} (h : s.Inv) : ∃ t, seqStep s = .next t := by
  cases hs : s.seq with
  | idle => exact ⟨_, seqStep_of_idle hs⟩
  | loop r => exact ⟨_, seqStep_of_loop hs ((State.seqInv_of_loop hs).1 h.seq).1⟩
  | final r => exact ⟨_, seqStep_of_final hs⟩
  | execDbl x z => exact ⟨_, seqStep_of_execDbl hs⟩
  | execDadd x z a b => exact ⟨_, seqStep_of_execDadd hs⟩
  | execAff x z =>
    cases hres : affine x z with
    | ok v => exact ⟨_, seqStep_of_execAff_ok hs hres⟩
    | error e => exact ⟨_, seqStep_of_execAff_error hs hres⟩

theorem seqRun_succ {n : Nat} {s t : State} (h : seqStep s = .next t) : seqRun (n + 1) s = seqRun n t := by
  simp only [seqRun, h]

theorem seqRun_succ_next {n : Nat} {s u : State} (h : seqRun (n + 1) s = .next u) :
    ∃ t, seqStep s = .next t ∧ seqRun n t = .next u := by
  cases hs : seqStep s <;> simp only [seqRun, hs] at h
  case next t => exact ⟨t, rfl, h⟩
  all_goals cases h

theorem seqRun_script {n : Nat} {s u : State} (h : seqRun n s = .next u) : u.script = s.script := by
  induction n generalizing s with
  | zero => rw [← Host.Outcome.next.inj h]
  | succ n ih =>
    obtain ⟨t, ht, hrun⟩ := seqRun_succ_next h
    rw [ih hrun, seqStep_script ht]

/-- Under the invariant the steps a call has left end it, with DONE set (R121); no step is left where there is no call. -/
theorem State.Inv.seqRun_stepsLeft {s : State} (hinv : s.Inv) (hdone : s.busy = false → s.done = true) :
    ∃ u, seqRun s.stepsLeft s = .next u ∧ u.seq = .idle ∧ u.done = true := by
  induction hn : s.stepsLeft generalizing s with
  | zero =>
    have hidle := State.stepsLeft_eq_zero.1 hn
    exact ⟨s, rfl, hidle, hdone (State.busy_eq_false.2 hidle)⟩
  | succ n ih =>
    have hbusy := State.busy_of_stepsLeft_pos (s := s) (by omega)
    obtain ⟨t, ht⟩ := hinv.seqStep_next
    have hleft := seqStep_stepsLeft hbusy ht
    have htdone : t.busy = false → t.done = true := fun hend => by simp [seqStep_done hbusy ht, hend]
    obtain ⟨u, hrun, hu⟩ := ih (seqStep_keeps_inv hinv ht) htdone (by omega)
    exact ⟨u, by rw [seqRun_succ ht, hrun], hu⟩

/-! ### WAIT -/

theorem step_of_wait_of_done {s : State} {rest : List HostLine} (hs : s.script = .wait :: rest) (hdone : s.done = true) :
    step s = .next (s.setScript rest) :=
  (step_of_wait hs).trans (hostWait_of_done hdone rest)

theorem step_of_wait_of_not_done {s : State} {rest : List HostLine} (hs : s.script = .wait :: rest)
    (hdone : s.done = false) : step s = seqStep s :=
  (step_of_wait hs).trans (hostWait_of_not_done hdone rest)

/-- The events of an unfinished WAIT are the sequencer's steps (notes/assumptions/2.md). -/
theorem runSteps_eq_seqRun_of_wait {n : Nat} {s : State} {rest : List HostLine} (hs : s.script = .wait :: rest)
    (hdone : s.done = false) (hn : n ≤ s.stepsLeft) : runSteps n s = seqRun n s := by
  induction n generalizing s with
  | zero => rfl
  | succ n ih =>
    have hstep := step_of_wait_of_not_done hs hdone
    simp only [runSteps, seqRun, hstep]
    have hbusy := State.busy_of_stepsLeft_pos (s := s) (by omega)
    cases ht : seqStep s with
    | next t =>
      have hleft := seqStep_stepsLeft hbusy ht
      cases n with
      | zero => rfl
      | succ n =>
        have htbusy := State.busy_of_stepsLeft_pos (s := t) (by omega)
        exact ih ((seqStep_script ht).trans hs) (by rw [seqStep_done hbusy ht, if_pos htbusy, hdone]) (by omega)
    | fault f => rfl
    | refused r => rfl

/-- A WAIT behind a call: the steps left, and one event that takes the line off (R46; notes/assumptions/2.md). -/
theorem runSteps_wait {s u : State} {rest : List HostLine} (hs : s.script = .wait :: rest) (hdone : s.done = false)
    (hrun : seqRun s.stepsLeft s = .next u) (hudone : u.done = true) :
    runSteps (s.stepsLeft + 1) s = .next (u.setScript rest) := by
  have hsteps : runSteps s.stepsLeft s = .next u := (runSteps_eq_seqRun_of_wait hs hdone le_rfl).trans hrun
  have hwait : u.script = .wait :: rest := (seqRun_script hrun).trans hs
  rw [runSteps_add _ 1 hsteps, runSteps_succ 0 (step_of_wait_of_done hwait hudone)]
  rfl

/-- Settles O26: the two answers of the line, and the run of the steps left, which the invariant makes complete. -/
theorem waitEndsAtCompletion : Obligations.WaitEndsAtCompletion := by
  refine ⟨fun _ _ => step_of_wait_of_done, fun _ _ => step_of_wait_of_not_done, fun s rest hinv hbusy hs => ?_⟩
  obtain ⟨u, hrun, hidle, hudone⟩ := hinv.seqRun_stepsLeft (by simp [hbusy])
  exact ⟨u.setScript rest, runSteps_wait hs (hinv.status.busy_done hbusy) hrun hudone, rfl, hudone,
    State.phase_eq_idle.2 hidle⟩

/-! ### MULT's run -/

/-- The working registers after the iterations for the bits t - 1 down to 0 of the captured scalar (R79). -/
def LadderRegs.iterateFrom : Nat → LadderRegs → LadderRegs
  | 0, r => r
  | t + 1, r => (r.iterate (r.kl.getLsbD t)).iterateFrom t

/-- What a trip of the pure function carries to the next: the two pairs and the swap flag (R81). -/
def LadderRegs.accumulators (r : LadderRegs) : Ratio × Ratio × Bool := ((r.x2, r.z2), (r.x3, r.z3), r.swap)

/-- The iterations are the trips of the pure function, where the captured scalar has the bits of `n` (R81). -/
theorem LadderRegs.accumulators_iterateFrom {n t : Nat} {r : LadderRegs} (hbits : ∀ i < t, r.kl.getLsbD i = n.testBit i) :
    (r.iterateFrom t).accumulators = pointMultLoop r.x1 n t (r.x2, r.z2) (r.x3, r.z3) r.swap := by
  induction t generalizing r with
  | zero => rfl
  | succ t ih =>
    rw [LadderRegs.iterateFrom, hbits t (Nat.lt_succ_self t)]
    exact ih (r := r.iterate (n.testBit t)) fun i hi => hbits i (Nat.lt_succ_of_lt hi)

theorem getLsbD_low255 {i : Nat} (hi : i < curve.nbits) (n : Word) : (low255 n).getLsbD i = n.toNat.testBit i := by
  rw [curve_nbits_eq] at hi
  rw [low255, BitVec.getLsbD_setWidth, BitVec.testBit_toNat]
  simp [hi]

/-- The ladder seeded with a reduced X and a captured scalar ends with `pointMult` (R72, R73, R81). -/
theorem LadderRegs.result_iterateFrom_seed (x n : Word) :
    ((LadderRegs.seed (reduceWord x) (low255 n)).iterateFrom curve.nbits).result = pointMult x n := by
  have htrips : ((LadderRegs.seed (reduceWord x) (low255 n)).iterateFrom curve.nbits).accumulators =
      pointMultLoop (reduceWord x) n.toNat curve.nbits (1, 0) (reduceWord x, 1) false :=
    LadderRegs.accumulators_iterateFrom fun i hi => getLsbD_low255 hi n
  rw [pointMult, ← htrips]
  rfl

/-- With `t` iterations behind the present one, the present one takes the scalar's bit `t` (R73). -/
theorem ladderBit_of_left {j t : Nat} (h : j + (t + 1) = curve.nbits) (kl : BitVec 255) :
    ladderBit kl j = kl.getLsbD t := by
  rw [curve_nbits_eq] at h
  rw [ladderBit, show 254 - j = t by omega]

/-- The last iteration goes to FINAL with ITER 255 (R79). -/
theorem State.afterIter_of_last {s : State} (h : s.iter.toNat + 1 = curve.nbits) (r : LadderRegs) :
    s.afterIter r = (s.setIter 255).setSeq (.final (r.iterateFrom 1)) := by
  have hiter : s.iter + 1 = 255 := by
    rw [curve_nbits_eq] at h
    bv_omega
  rw [State.afterIter, if_pos h, ladderBit_of_left h, hiter]
  rfl

/-- The iterations a running ladder has left, all of them: ITER then is 255 and the FINAL step comes next (R79). -/
theorem seqRun_to_final {t : Nat} {s : State} {r : LadderRegs} (hs : s.seq = .loop r)
    (ht : s.iter.toNat + (t + 1) = curve.nbits) :
    seqRun (t + 1) s = .next ((s.setIter 255).setSeq (.final (r.iterateFrom (t + 1)))) := by
  have hlt : s.iter.toNat < curve.nbits := by omega
  induction t generalizing s r with
  | zero =>
    rw [seqRun_succ (seqStep_of_loop hs hlt), State.afterIter_of_last ht]
    rfl
  | succ t ih =>
    have hiter := State.toNat_afterIter_iter hlt r
    rw [seqRun_succ (seqStep_of_loop hs hlt), ih (State.afterIter_seq_loop (by omega) r) (by omega) (by omega),
      ladderBit_of_left ht]
    rfl

/-- The whole run of a MULT call, from its START on, ends with `pointMult` and ITER 255 (R80, R81, R93). -/
theorem seqRun_mult (s : State) (x n : Word) :
    seqRun (curve.nbits + 1) (s.accept (.loop (LadderRegs.seed (reduceWord x) (low255 n)))) =
      .next ((s.setIter 255).completeRatio (pointMult x n)) := by
  have hrun : seqRun curve.nbits (s.accept (.loop (LadderRegs.seed (reduceWord x) (low255 n)))) =
      .next (((s.accept _).setIter 255).setSeq
        (.final ((LadderRegs.seed (reduceWord x) (low255 n)).iterateFrom curve.nbits))) :=
    seqRun_to_final (t := 254) rfl rfl
  rw [seqRun_succ_last hrun, seqStep_of_final (State.setSeq_seq _ _), LadderRegs.result_iterateFrom_seed]
  rfl

/-! ### The lines `CALL`, `MOVR` and `MULTAFF` -/

theorem callLines_append (i : Instr) (rest : List HostLine) :
    callLines i ++ rest = .start (encodeCode i) :: .wait :: rest := rfl

/-- `CALL` runs in its START's event, the call's steps and the event that ends the WAIT (R47; notes/assumptions/2.md). -/
theorem runSteps_call {i : Instr} {s u : State} {q : Sequencer} {rest : List HostLine} (hs : s.script = callLines i ++ rest)
    (hexec : exec i (s.setScript (.wait :: rest)) = .next ((s.setScript (.wait :: rest)).accept q))
    (hrun : seqRun (s.accept q).stepsLeft ((s.setScript (.wait :: rest)).accept q) = .next u) (hudone : u.done = true) :
    runSteps ((s.accept q).stepsLeft + 2) s = .next (u.setScript rest) := by
  have hstart : step s = .next ((s.setScript (.wait :: rest)).accept q) := by
    rw [step_of_start (hs.trans (callLines_append i rest)), decodeCode_encodeCode, hexec]
  rw [runSteps_succ _ hstart]
  exact runSteps_wait rfl rfl hrun hudone

theorem runSteps_callMult {s : State} {x n : Word} {rest : List HostLine} (hidle : s.seq = .idle) (hx : s.opa = some x)
    (hn : s.k = some n) (hs : s.script = callLines .mult ++ rest) :
    runSteps 258 s = .next (((s.setScript rest).setIter 255).completeRatio (pointMult x n)) :=
  runSteps_call hs (exec_mult_of_operands hidle hx hn) (seqRun_mult _ x n) rfl

/-- The step of an AFF call, from its START on, with a result (R60). -/
theorem runSteps_callAff_of_ok {s : State} {x z : Word} {v : FieldElt} {rest : List HostLine} (hidle : s.seq = .idle)
    (hx : s.opa = some x) (hz : s.opb = some z) (hs : s.script = callLines .aff ++ rest) (hv : pointAffine x z = .ok v) :
    runSteps 3 s = .next (((s.setScript rest).setIter 0).completeAffine v) :=
  runSteps_call hs (exec_aff_of_operands hidle hx hz) (seqRun_succ (seqStep_of_execAff_ok rfl hv)) rfl

/-- The step of an AFF call, from its START on, with an error (R60, R106). -/
theorem runSteps_callAff_of_error {s : State} {x z : Word} {e : ErrCode} {rest : List HostLine} (hidle : s.seq = .idle)
    (hx : s.opa = some x) (hz : s.opb = some z) (hs : s.script = callLines .aff ++ rest)
    (he : pointAffine x z = .error e) : runSteps 3 s = .next (((s.setScript rest).setIter 0).raise e) :=
  runSteps_call hs (exec_aff_of_operands hidle hx hz) (seqRun_succ (seqStep_of_execAff_error rfl he)) rfl

/-- A host write of a noted value. -/
theorem step_of_wr_noted {s : State} {r : OperandReg} {back : Nat} {rest : List HostLine}
    (hs : s.script = .wr r (.noted back) :: rest) {src : HostReg} {v : Word} (hv : s.seen[back]? = some (src, v)) :
    step s = .next ((s.setScript rest).setOperand r v) := by
  rw [step_of_wr hs]
  simp only [hostWrite, State.setScript_seen, hv]

/-- The first half of `MOVR`: the host notes what RX and RZ return. -/
theorem runSteps_readRatio {s : State} {a b : Word} {rest : List HostLine} (hs : s.script = .rd .rx :: .rd .rz :: rest)
    (hrx : s.hostRead .rx = some a) (hrz : s.hostRead .rz = some b) :
    runSteps 2 s = .next { s with script := rest, seen := (.rz, b) :: (.rx, a) :: s.seen } := by
  have hsecond : step { s with script := .rd .rz :: rest, seen := (.rx, a) :: s.seen } = _ := step_of_rd_some rfl hrz
  rw [runSteps_succ 1 (step_of_rd_some hs hrx), runSteps_succ 0 hsecond]
  rfl

/-- The second half of `MOVR`: the host writes its last two notes to OPA and OPB. -/
theorem runSteps_writeRatio {s : State} {p q : HostReg} {a b : Word} {rest : List HostLine}
    (hs : s.script = .wr .opa (.noted 1) :: .wr .opb (.noted 0) :: rest) (ha : s.seen[1]? = some (p, a))
    (hb : s.seen[0]? = some (q, b)) : runSteps 2 s = .next { s with opa := some a, opb := some b, script := rest } := by
  have hsecond : step ((s.setScript (.wr .opb (.noted 0) :: rest)).setOperand .opa a) = _ := step_of_wr_noted rfl hb
  rw [runSteps_succ 1 (step_of_wr_noted hs ha), runSteps_succ 0 hsecond]
  rfl

/-- `MOVR` copies what RX and RZ return to OPA and OPB, by way of the host's notes (R47; notes/assumptions/12.md). -/
theorem runSteps_movr {s : State} {a b : Word} {rest : List HostLine} (hs : s.script = movrLines ++ rest)
    (hrx : s.hostRead .rx = some a) (hrz : s.hostRead .rz = some b) :
    runSteps 4 s = .next { s with opa := some a, opb := some b, script := rest,
                                  seen := (.rz, b) :: (.rx, a) :: s.seen } :=
  (runSteps_add 2 2 (runSteps_readRatio hs hrx hrz)).trans (runSteps_writeRatio rfl rfl rfl)

theorem multAffLines_append (rest : List HostLine) :
    multAffLines ++ rest = callLines .mult ++ (movrLines ++ (callLines .aff ++ rest)) := rfl

/-- Settles O27: the run of `CALL MULT`, of `MOVR` and of `CALL AFF`, one behind the other. -/
theorem multAffPipelineRecovers : Obligations.MultAffPipelineRecovers := by
  intro s x n rest hidle hx hn hs
  have hmult := runSteps_callMult (State.phase_eq_idle.1 hidle) hx hn (hs.trans (multAffLines_append rest))
  have hmovr := runSteps_movr (s := ((s.setScript (movrLines ++ (callLines .aff ++ rest))).setIter 255).completeRatio
    (pointMult x n)) rfl rfl rfl
  have hjoin : runSteps 265 s = runSteps 3 _ :=
    (runSteps_add 258 7 hmult).trans (runSteps_add 4 3 hmovr)
  cases haff : pointAffine (zext256 (pointMult x n).1) (zext256 (pointMult x n).2) with
  | ok v =>
    exact ⟨_, hjoin.trans (runSteps_callAff_of_ok rfl rfl rfl rfl haff), rfl, rfl, rfl, rfl, rfl, rfl, hn, rfl, rfl⟩
  | error e =>
    exact ⟨_, hjoin.trans (runSteps_callAff_of_error rfl rfl rfl rfl haff), rfl, rfl, rfl, rfl, rfl, rfl, hn, rfl, rfl⟩

end Sys2Proof.Machine
end

section
/-! SUPPORT. The statements of spec/40_field_interface.md: `reduce` as the choice of a class's canonical representative (R50,
R57), what `inverseOf` answers (R52, R53), and the field laws (R58). -/

namespace Sys2Proof.Machine

/-! ### The canonical representative (R50, R57) -/

theorem residue_eq_intCast (a : FieldElt) : residue a = ((a.toNat : Int) : ZMod P) := (Int.cast_natCast _).symm

theorem dvd_sub_toNat_iff {v : Int} {r : FieldElt} : (P : Int) ∣ v - r.toNat ↔ residue r = v := by
  rw [residue_eq_intCast, ZMod.intCast_eq_intCast_iff_dvd_sub]

theorem eq_reduce_iff {v : Int} {r : FieldElt} (hr : Canonical r) : r = reduce v ↔ (P : Int) ∣ v - r.toNat := by
  rw [dvd_sub_toNat_iff, ← residue_reduce]
  exact ⟨congrArg residue, eq_of_residue hr (reduce_canonical v)⟩

theorem toNat_ofNat_of_lt_P {n : Nat} (h : n < P) : (BitVec.ofNat 255 n).toNat = n := by
  rw [BitVec.toNat_ofNat, Nat.mod_eq_of_lt (h.trans P_lt)]

/-- A value given by its number: below P and congruent to v. -/
theorem reduce_eq_ofNat {v : Int} {n : Nat} (hn : n < P) (hdvd : (P : Int) ∣ v - n) : reduce v = BitVec.ofNat 255 n := by
  have htoNat := toNat_ofNat_of_lt_P hn
  have hcanon : Canonical (BitVec.ofNat 255 n) := htoNat.trans_lt hn
  exact ((eq_reduce_iff hcanon).2 (by rwa [htoNat])).symm

/-- Settles O35: existence and uniqueness are the two directions of `eq_reduce_iff`; each example is a number congruent to
the argument. -/
theorem reduceIsCanonicalRepresentative : Obligations.ReduceIsCanonicalRepresentative := by
  have hlt : P - 1 < P := Nat.sub_lt P_pos one_pos
  have hminus : reduce (-1) = BitVec.ofNat 255 (P - 1) := reduce_eq_ofNat hlt (by rw [P_eq]; norm_num)
  refine ⟨fun v => ⟨reduce_canonical v, (eq_reduce_iff (reduce_canonical v)).1 rfl, fun _ hr => (eq_reduce_iff hr).2⟩,
    reduce_eq_ofNat P_pos ?_, reduce_eq_ofNat (n := 9) ?_ ?_, reduce_eq_ofNat (n := 19) ?_ ?_,
    reduce_eq_ofNat (n := 37) ?_ ?_, by rw [hminus, toNat_ofNat_of_lt_P hlt]⟩
  all_goals rw [P_eq]; norm_num

theorem reduce_mul (u v : Int) : reduce (u * v) = fmul (reduce u) (reduce v) :=
  eq_of_residue (reduce_canonical _) (fmul_canonical _ _) (by simp only [residue_reduce, residue_fmul, Int.cast_mul])

theorem reduce_add (u v : Int) : reduce (u + v) = fadd (reduce u) (reduce v) :=
  eq_of_residue (reduce_canonical _) (fadd_canonical _ _) (by simp only [residue_reduce, residue_fadd, Int.cast_add])

theorem reduce_sub (u v : Int) : reduce (u - v) = fsub (reduce u) (reduce v) :=
  eq_of_residue (reduce_canonical _) (fsub_canonical _ _) (by simp only [residue_reduce, residue_fsub, Int.cast_sub])

/-- Settles O37: `reduce` carries the integers' product, sum and difference to the field's. -/
theorem earlyReductionIsHarmless : Obligations.EarlyReductionIsHarmless :=
  fun u v => ⟨reduce_mul u v, reduce_add u v, reduce_sub u v⟩

/-! ### The inverse (R52, R53) -/

theorem mul_toNat_emod_eq_one_iff {v : Int} {w : FieldElt} : v * w.toNat % P = 1 ↔ (v : ZMod P) * residue w = 1 := by
  have hone : (1 : Int) % P = 1 := Int.emod_eq_of_lt (by norm_num) (by exact_mod_cast P_prime.one_lt)
  rw [residue_eq_intCast, ← Int.cast_mul, ← Int.cast_one (R := ZMod P), ZMod.intCast_eq_intCast_iff', hone]

/-- On an integer's representative, repeated squaring computes the integer's power modulo P. -/
theorem powMod_toNat_emod (v : Int) {e : Nat} (he : e < 2 ^ 255) :
    powMod P 255 (v % (P : Int)).toNat e = (v ^ e % (P : Int)).toNat := by
  have hpos : (0 : Int) < P := by exact_mod_cast P_pos
  have hbase : (((v % (P : Int)).toNat : Nat) : Int) = v % (P : Int) := Int.toNat_of_nonneg (Int.emod_nonneg v hpos.ne')
  have hpow : (((v % (P : Int)).toNat ^ e % P : Nat) : Int) = v ^ e % (P : Int) := by
    rw [Int.natCast_mod, Int.natCast_pow, hbase]
    exact (Int.mod_modEq v P).pow e
  rw [powMod_eq _ _ _ _ he, ← hpow, Int.toNat_natCast]

/-- What `inverseOf` answers where it has a value: the canonical representative of the power P - 2 (R52). -/
theorem inverseOf_eq_some_reduce {v : Int} (hv : v % (P : Int) ≠ 0) : inverseOf v = some (reduce (v ^ (P - 2))) := by
  rw [inverseOf, if_neg hv, reduce, powMod_toNat_emod v (lt_of_le_of_lt (Nat.sub_le P 2) P_lt)]

theorem inverseOf_eq_none_iff {v : Int} : inverseOf v = none ↔ v % (P : Int) = 0 := by
  simp [inverseOf]

theorem inverseOf_eq_some {v : Int} {w : FieldElt} (h : inverseOf v = some w) :
    v % (P : Int) ≠ 0 ∧ w = reduce (v ^ (P - 2)) := by
  have hv : v % (P : Int) ≠ 0 := fun hzero => by simp [inverseOf_eq_none_iff.2 hzero] at h
  rw [inverseOf_eq_some_reduce hv] at h
  exact ⟨hv, (Option.some.inj h).symm⟩

theorem inverseOf_canonical {v : Int} {w : FieldElt} (h : inverseOf v = some w) : Canonical w := by
  rw [(inverseOf_eq_some h).2]
  exact reduce_canonical _

/-- Fermat's little theorem makes the power P - 2 the inverse, P being prime. -/
theorem mul_residue_inverseOf {v : Int} {w : FieldElt} (h : inverseOf v = some w) : (v : ZMod P) * residue w = 1 := by
  have hprime : Fact P.Prime := ⟨P_prime⟩
  obtain ⟨hmod, rfl⟩ := inverseOf_eq_some h
  have hv : (v : ZMod P) ≠ 0 := fun hzero =>
    hmod (Int.emod_eq_zero_of_dvd ((ZMod.intCast_zmod_eq_zero_iff_dvd v P).1 hzero))
  have hexp : P - 2 + 1 = P - 1 := by have := P_prime.two_le; omega
  rw [residue_reduce, Int.cast_pow, ← pow_succ', hexp, ZMod.pow_card_sub_one_eq_one hv]

/-- The whole contract (R52): the value is the field element below P whose product with the argument is 1 modulo P. -/
theorem inverseOf_eq_some_iff {v : Int} {w : FieldElt} : inverseOf v = some w ↔ Canonical w ∧ v * w.toNat % P = 1 := by
  rw [mul_toNat_emod_eq_one_iff]
  constructor
  · exact fun h => ⟨inverseOf_canonical h, mul_residue_inverseOf h⟩
  · rintro ⟨hcanon, hone⟩
    have hprime : Fact P.Prime := ⟨P_prime⟩
    have hv : v % (P : Int) ≠ 0 := by
      intro hzero
      rw [(ZMod.intCast_zmod_eq_zero_iff_dvd v P).2 (Int.dvd_of_emod_eq_zero hzero), zero_mul] at hone
      exact zero_ne_one hone
    have hw := inverseOf_eq_some_reduce hv
    have hleft : residue w * v = 1 := (mul_comm _ _).trans hone
    rw [hw, eq_of_residue hcanon (inverseOf_canonical hw) (left_inv_eq_right_inv hleft (mul_residue_inverseOf hw))]

/-- An inverse given by its number. -/
theorem inverseOf_map_toNat {v : Int} {n : Nat} (hn : n < P) (hone : v * n % P = 1) :
    (inverseOf v).map BitVec.toNat = some n := by
  have htoNat := toNat_ofNat_of_lt_P hn
  have hw : inverseOf v = some (BitVec.ofNat 255 n) :=
    inverseOf_eq_some_iff.2 ⟨htoNat.trans_lt hn, by rw [htoNat, hone]⟩
  rw [hw, Option.map_some, htoNat]

/-- Settles O36: existence, uniqueness and the examples are `inverseOf_eq_some_iff`, the value at 0 is
`inverseOf_eq_none_iff`. -/
theorem inverseContract : Obligations.InverseContract := by
  refine ⟨fun v hv => ?_, fun v => inverseOf_eq_none_iff.2, inverseOf_eq_some_iff.2 ⟨canonical_one, Int.emod_eq_of_lt ?_ ?_⟩,
    inverseOf_map_toNat ?_ ?_, inverseOf_map_toNat ?_ ?_⟩
  case refine_1 =>
    obtain ⟨w, hw⟩ := Option.ne_none_iff_exists'.1 (mt inverseOf_eq_none_iff.1 hv)
    obtain ⟨hcanon, hone⟩ := inverseOf_eq_some_iff.1 hw
    exact ⟨w, hw, hcanon, hone, fun w' hcanon' hone' =>
      Option.some.inj ((inverseOf_eq_some_iff.2 ⟨hcanon', hone'⟩).symm.trans hw)⟩
  all_goals simp [P_eq]

/-! ### The field laws (R58) -/

theorem fadd_comm (a b : FieldElt) : fadd a b = fadd b a := by rw [fadd, fadd, add_comm]

theorem fmul_comm (a b : FieldElt) : fmul a b = fmul b a := by rw [fmul, fmul, mul_comm]

theorem fadd_assoc (a b c : FieldElt) : fadd (fadd a b) c = fadd a (fadd b c) :=
  eq_of_residue (fadd_canonical _ _) (fadd_canonical _ _) (by simp only [residue_fadd, add_assoc])

theorem fmul_assoc (a b c : FieldElt) : fmul (fmul a b) c = fmul a (fmul b c) :=
  eq_of_residue (fmul_canonical _ _) (fmul_canonical _ _) (by simp only [residue_fmul, mul_assoc])

theorem fmul_fadd (a b c : FieldElt) : fmul a (fadd b c) = fadd (fmul a b) (fmul a c) :=
  eq_of_residue (fmul_canonical _ _) (fadd_canonical _ _) (by simp only [residue_fmul, residue_fadd, mul_add])

theorem fmul_fsub (a b c : FieldElt) : fmul a (fsub b c) = fsub (fmul a b) (fmul a c) :=
  eq_of_residue (fmul_canonical _ _) (fsub_canonical _ _) (by simp only [residue_fmul, residue_fsub, mul_sub])

theorem fadd_zero {a : FieldElt} (ha : Canonical a) : fadd a 0 = a :=
  eq_of_residue (fadd_canonical _ _) ha (by rw [residue_fadd, residue_zero, add_zero])

theorem fmul_one {a : FieldElt} (ha : Canonical a) : fmul a 1 = a :=
  eq_of_residue (fmul_canonical _ _) ha (by rw [residue_fmul, residue_one, mul_one])

theorem fsub_self (a : FieldElt) : fsub a a = 0 :=
  (residue_eq_zero (fsub_canonical _ _)).1 (by rw [residue_fsub, sub_self])

/-- Where P's primality enters the laws: `ZMod P` has no zero divisors. -/
theorem fmul_eq_zero_iff {a b : FieldElt} (ha : Canonical a) (hb : Canonical b) : fmul a b = 0 ↔ a = 0 ∨ b = 0 := by
  have hprime : Fact P.Prime := ⟨P_prime⟩
  rw [← residue_eq_zero (fmul_canonical _ _), residue_fmul, mul_eq_zero, residue_eq_zero ha, residue_eq_zero hb]

theorem fmul_inverseOf {a w : FieldElt} (h : inverseOf a.toNat = some w) : fmul a w = 1 :=
  eq_of_residue (fmul_canonical _ _) canonical_one
    (by rw [residue_fmul, residue_one, residue_eq_intCast a, mul_residue_inverseOf h])

theorem fsq_fsub_comm (a b : FieldElt) : fsq (fsub a b) = fsq (fsub b a) :=
  eq_of_residue (fsq_canonical _) (fsq_canonical _) (by simp only [residue_fsq, residue_fsub]; ring)

theorem residue_four : residue 4 = 4 := by simp [residue]

/-- Why the doubler's middle term is written 4xz (R58, R63). -/
theorem fsub_fsq_fadd_fsq_fsub (a b : FieldElt) : fsub (fsq (fadd a b)) (fsq (fsub a b)) = fmul 4 (fmul a b) :=
  eq_of_residue (fsub_canonical _ _) (fmul_canonical _ _)
    (by simp only [residue_fsub, residue_fsq, residue_fadd, residue_fmul, residue_four]; ring)

/-- Settles O38: each law is a lemma above, an equation between classes in the field `ZMod P`. -/
theorem fieldLaws : Obligations.FieldLaws := by
  intro a b c ha hb _
  have hinverse (hne : a ≠ 0) : ∃ w, inverseOf a.toNat = some w ∧ fmul a w = 1 := by
    obtain ⟨w, hw⟩ := Option.ne_none_iff_exists'.1 (inverseOf_of_canonical ha hne)
    exact ⟨w, hw, fmul_inverseOf hw⟩
  exact ⟨fadd_comm a b, fmul_comm a b, fadd_assoc a b c, fmul_assoc a b c, fmul_fadd a b c, fmul_fsub a b c, fadd_zero ha,
    fmul_one ha, fsub_self a, fmul_eq_zero_iff ha hb, hinverse, fsq_fsub_comm a b, fsub_fsq_fadd_fsq_fsub a b⟩

end Sys2Proof.Machine
end

section
/-! SUPPORT. The statements of spec/41_affine_recovery.md: when AFF answers a value and which one, or DEGENERATE_RATIO (R60,
R61), and that another representative of an operand ratio gives another representative of the same output ratio (R62, R65,
R69, R95). -/

namespace Sys2Proof.Machine

/-! ### What an affine recovery answers (R60, R61) -/

/-- The zero test decides alone, whatever x is (R61). -/
theorem affine_zero (x : FieldElt) : affine x 0 = .error .degenerateRatio := by
  simp [affine]

theorem affine_of_inverseOf {z w : FieldElt} (hz : z ≠ 0) (hw : inverseOf (z.toNat : Int) = some w) (x : FieldElt) :
    affine x z = .ok (fmul x w) := by
  simp only [affine, if_neg hz, hw]

/-- A canonical denominator other than 0 has an inverse, so that the recovery answers a value (R60). -/
theorem exists_affine_eq_ok {z : FieldElt} (hz : Canonical z) (hne : z ≠ 0) (x : FieldElt) :
    ∃ v, affine x z = .ok v := by
  obtain ⟨w, hw⟩ := Option.ne_none_iff_exists'.1 (inverseOf_of_canonical hz hne)
  exact ⟨_, affine_of_inverseOf hne hw x⟩

/-- The value of a recovery is the quotient x / z: its product with z is x modulo P (R60). -/
theorem residue_mul_of_affine_eq_ok {x z v : FieldElt} (hz : Canonical z) (hne : z ≠ 0) (h : affine x z = .ok v) :
    residue v * residue z = residue x := by
  obtain ⟨w, hw⟩ := Option.ne_none_iff_exists'.1 (inverseOf_of_canonical hz hne)
  obtain rfl := Except.ok.inj ((affine_of_inverseOf hne hw x).symm.trans h)
  have hone : residue z * residue w = 1 := by rw [residue_eq_intCast z, mul_residue_inverseOf hw]
  rw [residue_fmul, mul_assoc, mul_comm (residue w), hone, mul_one]

/-- The whole contract of a recovery: its value is the one canonical v with v z = x modulo P (R60). -/
theorem affine_eq_ok_iff {x z v : FieldElt} (hz : Canonical z) (hne : z ≠ 0) :
    affine x z = .ok v ↔ Canonical v ∧ residue v * residue z = residue x := by
  have hprime : Fact P.Prime := ⟨P_prime⟩
  refine ⟨fun h => ⟨affine_ok_canonical h, residue_mul_of_affine_eq_ok hz hne h⟩, fun ⟨hv, hmul⟩ => ?_⟩
  obtain ⟨v', hv'⟩ := exists_affine_eq_ok hz hne x
  have hmul' := residue_mul_of_affine_eq_ok hz hne hv'
  have hresidue : residue v = residue v' :=
    mul_right_cancel₀ (mt (residue_eq_zero hz).1 hne) (hmul.trans hmul'.symm)
  rw [hv', eq_of_residue hv (affine_ok_canonical hv') hresidue]

/-! ### On operand words -/

/-- The test on the captured value is the test modulo P on the register's (R61). -/
theorem reduceWord_eq_zero_iff {z : Word} : reduceWord z = 0 ↔ z.toNat % P = 0 := by
  rw [← residue_eq_zero (reduceWord_canonical z), residue_reduceWord, ZMod.natCast_eq_zero_iff, Nat.dvd_iff_mod_eq_zero]

theorem pointAffine_eq_ok_iff {x z : Word} {v : FieldElt} (hz : z.toNat % P ≠ 0) :
    pointAffine x z = .ok v ↔ Canonical v ∧ v.toNat * z.toNat % P = x.toNat % P := by
  rw [pointAffine, affine_eq_ok_iff (reduceWord_canonical z) (mt reduceWord_eq_zero_iff.1 hz), residue_reduceWord,
    residue_reduceWord, residue, ← Nat.cast_mul, ZMod.natCast_eq_natCast_iff']

theorem exists_pointAffine_eq_ok {z : Word} (hz : z.toNat % P ≠ 0) (x : Word) : ∃ v, pointAffine x z = .ok v :=
  exists_affine_eq_ok (reduceWord_canonical z) (mt reduceWord_eq_zero_iff.1 hz) _

theorem pointAffine_of_degenerate {z : Word} (hz : z.toNat % P = 0) (x : Word) :
    pointAffine x z = .error .degenerateRatio := by
  rw [pointAffine, reduceWord_eq_zero_iff.2 hz, affine_zero]

/-! ### The AFF call -/

/-- A START of AFF in IDLE and its one EXEC step, where the recovery answers a value (R60). -/
theorem affCall_of_ok {s : State} {x z : Word} {v : FieldElt} (hidle : s.phase = .idle) (hx : s.opa = some x)
    (hz : s.opb = some z) (hv : pointAffine x z = .ok v) :
    ∃ t, exec .aff s = .next t ∧ t.iter = 0 ∧ seqStep t = .next (t.completeAffine v) :=
  ⟨_, exec_aff_of_operands (State.phase_eq_idle.1 hidle) hx hz, rfl, seqStep_of_execAff_ok rfl hv⟩

/-- A START of AFF in IDLE and its one EXEC step, where the recovery raises an error (R60, R106). -/
theorem affCall_of_error {s : State} {x z : Word} {e : ErrCode} (hidle : s.phase = .idle) (hx : s.opa = some x)
    (hz : s.opb = some z) (he : pointAffine x z = .error e) :
    ∃ t, exec .aff s = .next t ∧ t.iter = 0 ∧ seqStep t = .next (t.raise e) :=
  ⟨_, exec_aff_of_operands (State.phase_eq_idle.1 hidle) hx hz, rfl, seqStep_of_execAff_error rfl he⟩

theorem nine_lt_P : 9 < P := by rw [P_eq]; norm_num

/-- Settles O12: the call ends as the recovery answers, and the recovery answers by the denominator modulo P. -/
theorem affCallRecoversOrRaises : Obligations.AffCallRecoversOrRaises := by
  refine ⟨rfl, fun s x z hidle hx hz hne => ?_, fun s x z hidle hx hz hzero => ?_, ?_⟩
  case refine_1 =>
    obtain ⟨v, hv⟩ := exists_pointAffine_eq_ok hne x
    obtain ⟨hcanon, hmul⟩ := (pointAffine_eq_ok_iff hne).1 hv
    obtain ⟨t, hstart, hiter, hstep⟩ := affCall_of_ok hidle hx hz hv
    have hrx := zext256_toNat v
    exact ⟨t, _, zext256 v, hstart, hstep, rfl, hrx.trans_lt hcanon, by rw [hrx, hmul], rfl,
      t.statusByte_completeAffine v, rfl, hiter, rfl⟩
  case refine_2 =>
    obtain ⟨t, hstart, hiter, hstep⟩ := affCall_of_error hidle hx hz (pointAffine_of_degenerate hzero x)
    exact ⟨t, _, hstart, hstep, rfl, rfl, rfl, t.statusByte_raise_degenerate, hiter, rfl⟩
  case refine_3 =>
    have hne : (2 : Word).toNat % P ≠ 0 := by simp [P_eq]
    exact (pointAffine_eq_ok_iff hne).2 ⟨nine_lt_P, rfl⟩

/-! ### Representation independence (R62, R65, R69, R95) -/

/-- A square is 0 only for 0: `ZMod P` has no nilpotents, P being prime. -/
theorem fsq_ne_zero {a : FieldElt} (ha : Canonical a) (hne : a ≠ 0) : fsq a ≠ 0 := by
  have hprime : Fact P.Prime := ⟨P_prime⟩
  rw [Ne, ← residue_eq_zero (fsq_canonical a), residue_fsq]
  exact pow_ne_zero 2 (mt (residue_eq_zero ha).1 hne)

/-- The doubling law is homogeneous of degree 4 (R65). -/
theorem double_fmul_fmul (l x z : FieldElt) :
    double (fmul l x) (fmul l z) = (fmul (fsq (fsq l)) (double x z).1, fmul (fsq (fsq l)) (double x z).2) := by
  obtain ⟨hfst, hsnd⟩ := double_canonical (fmul l x) (fmul l z)
  refine Prod.ext (eq_of_residue hfst (fmul_canonical _ _) ?_) (eq_of_residue hsnd (fmul_canonical _ _) ?_)
  · simp only [residue_double_fst, residue_fmul, residue_fsq]
    ring
  · simp only [residue_double_snd, residue_fmul, residue_fsq]
    ring

/-- The differential addition is homogeneous of degree 2 in the point added to (R69). -/
theorem diffAdd_fmul_fmul_left (l x z a b : FieldElt) :
    diffAdd (fmul l x) (fmul l z) a b = (fmul (fsq l) (diffAdd x z a b).1, fmul (fsq l) (diffAdd x z a b).2) := by
  obtain ⟨hfst, hsnd⟩ := diffAdd_canonical (fmul l x) (fmul l z) a b
  refine Prod.ext (eq_of_residue hfst (fmul_canonical _ _) ?_) (eq_of_residue hsnd (fmul_canonical _ _) ?_)
  · simp only [residue_diffAdd_fst, residue_fmul, residue_fsq]
    ring
  · simp only [residue_diffAdd_snd, residue_fmul, residue_fsq]
    ring

/-- The differential addition is linear in the difference of its points (R69). -/
theorem diffAdd_fmul_fmul_right (m x z a b : FieldElt) :
    diffAdd x z (fmul m a) (fmul m b) = (fmul m (diffAdd x z a b).1, fmul m (diffAdd x z a b).2) :=
  Prod.ext (fmul_assoc m b _) (fmul_assoc m a _)

/-- A common factor cancels in the quotient, and a denominator 0 stays 0 (R62). -/
theorem affine_fmul_fmul {l z : FieldElt} (hl : Canonical l) (hne : l ≠ 0) (hz : Canonical z) (x : FieldElt) :
    affine (fmul l x) (fmul l z) = affine x z := by
  by_cases hzero : z = 0
  · have hscaled : fmul l z = 0 := (fmul_eq_zero_iff hl hz).2 (.inr hzero)
    rw [hscaled, hzero, affine_zero, affine_zero]
  · have hscaled : fmul l z ≠ 0 := mt (fmul_eq_zero_iff hl hz).1 (not_or.2 ⟨hne, hzero⟩)
    obtain ⟨v, hv⟩ := exists_affine_eq_ok hz hzero x
    obtain ⟨hcanon, hmul⟩ := (affine_eq_ok_iff hz hzero).1 hv
    refine ((affine_eq_ok_iff (fmul_canonical l z) hscaled).2 ⟨hcanon, ?_⟩).trans hv.symm
    rw [residue_fmul, residue_fmul, mul_left_comm, hmul]

/-- Settles O42: each command's output under a scaled operand is a lemma above, and the factors are squares of non-zero
values. -/
theorem representationIndependence : Obligations.RepresentationIndependence := by
  intro x z a b l m _ hz _ _ hl _ hlne _
  have hsq := fsq_ne_zero hl hlne
  exact ⟨double_fmul_fmul l x z, diffAdd_fmul_fmul_left l x z a b, diffAdd_fmul_fmul_right m x z a b,
    affine_fmul_fmul hl hlne hz x, fsq_ne_zero (fsq_canonical l) hsq, hsq⟩

end Sys2Proof.Machine
end

section
/-! SUPPORT. The statements of spec/42_point_double.md: DBL's call and its doubling law over the integers modulo P (R63),
the doubling of infinity and the one way to the pair (0, 0) (R64), and the ladder's doubling half (R66). -/

namespace Sys2Proof.Machine

/-! ### The doubling law on operand words (R63) -/

/-- DBL's x' as an integer, before its reduction (R63). -/
def doublingX (x z : Int) : Int := (x + z) ^ 2 * (x - z) ^ 2

/-- DBL's z' as an integer, before its reduction (R63). -/
def doublingZ (x z : Int) : Int := 4 * x * z * ((x - z) ^ 2 + 121666 * (4 * x * z))

theorem residue_pointDouble_fst (x z : Word) :
    residue (pointDouble x z).1 = ((doublingX x.toNat z.toNat : Int) : ZMod P) := by
  rw [pointDouble, residue_double_fst, residue_reduceWord, residue_reduceWord, doublingX]
  push_cast
  rfl

theorem residue_pointDouble_snd (x z : Word) :
    residue (pointDouble x z).2 = ((doublingZ x.toNat z.toNat : Int) : ZMod P) := by
  rw [pointDouble, residue_double_snd, residue_reduceWord, residue_reduceWord, doublingZ]
  push_cast
  rfl

/-- DBL as a whole: the law's two integers, each reduced once (R63). -/
theorem pointDouble_eq_reduce (x z : Word) :
    pointDouble x z = (reduce (doublingX x.toNat z.toNat), reduce (doublingZ x.toNat z.toNat)) := by
  obtain ⟨hfst, hsnd⟩ := double_canonical (reduceWord x) (reduceWord z)
  refine Prod.ext (eq_of_residue hfst (reduce_canonical _) ?_) (eq_of_residue hsnd (reduce_canonical _) ?_)
  · exact (residue_pointDouble_fst x z).trans (residue_reduce _).symm
  · exact (residue_pointDouble_snd x z).trans (residue_reduce _).symm

/-- A reduced integer on a result register (R7, R50). -/
theorem zext256_reduce (v : Int) : zext256 (reduce v) = BitVec.ofInt 256 (v % P) := by
  rw [← reduce_toNat, BitVec.ofInt_natCast, ← zext256_toNat, BitVec.ofNat_toNat, BitVec.setWidth_eq]

/-- A START of DBL in IDLE and its one EXEC step (R63). -/
theorem dblCall {s : State} {x z : Word} (hidle : s.phase = .idle) (hx : s.opa = some x) (hz : s.opb = some z) :
    ∃ t, exec .dbl s = .next t ∧ t.iter = 0 ∧ seqStep t = .next (t.completeRatio (pointDouble x z)) :=
  ⟨_, exec_dbl_of_operands (State.phase_eq_idle.1 hidle) hx hz, rfl, seqStep_of_execDbl rfl⟩

theorem pointDouble_nine_one : pointDouble 9 1 = (0x1900, 0x9660720) := by
  rw [pointDouble_eq_reduce]
  have hx : reduce (doublingX 9 1) = 0x1900 :=
    reduce_eq_ofNat (n := 0x1900) (by norm_num [P_eq]) (by norm_num [doublingX])
  have hz : reduce (doublingZ 9 1) = 0x9660720 :=
    reduce_eq_ofNat (n := 0x9660720) (by norm_num [P_eq]) (by norm_num [doublingZ])
  exact Prod.ext hx hz

/-- Settles O10: the call ends with the ratio `pointDouble`, which is the law's integers reduced. -/
theorem dblCallComputesDoublingLaw : Obligations.DblCallComputesDoublingLaw := by
  refine ⟨rfl, fun s x z hidle hx hz => ?_, pointDouble_nine_one⟩
  obtain ⟨t, hstart, hiter, hstep⟩ := dblCall hidle hx hz
  refine ⟨t, _, hstart, hstep, ?_, ?_, t.statusByte_completeRatio _, rfl, hiter, rfl⟩
  · rw [State.completeRatio_rx, pointDouble_eq_reduce, zext256_reduce, doublingX]
  · rw [State.completeRatio_rz, pointDouble_eq_reduce, zext256_reduce, doublingZ]

/-! ### Infinity and the pair (0, 0) (R64) -/

/-- With z = 0 the two squares agree and their difference, DBL's E, is 0 (R64). -/
theorem double_zero_right (x : FieldElt) : double x 0 = (fsq (fsq x), 0) := by
  obtain ⟨hfst, hsnd⟩ := double_canonical x 0
  refine Prod.ext (eq_of_residue hfst (fsq_canonical _) ?_) ((residue_eq_zero hsnd).1 ?_)
  · rw [residue_double_fst, residue_zero, residue_fsq, residue_fsq]
    ring
  · rw [residue_double_snd, residue_zero]
    ring

theorem fsq_fsq_reduceWord (x : Word) : fsq (fsq (reduceWord x)) = reduce ((x.toNat : Int) ^ 4) :=
  eq_of_residue (fsq_canonical _) (reduce_canonical _) (by
    rw [residue_fsq, residue_fsq, residue_reduceWord, residue_reduce]
    push_cast
    ring)

/-- Doubling a pair with z ≡ 0 gives infinity again, with x' = x⁴ (R64). -/
theorem pointDouble_of_infinity {z : Word} (hz : z.toNat % P = 0) (x : Word) :
    pointDouble x z = (reduce ((x.toNat : Int) ^ 4), 0) := by
  rw [pointDouble, reduceWord_eq_zero_iff.2 hz, double_zero_right, fsq_fsq_reduceWord]

theorem natCast_ne_zero_of_lt_P {n : Nat} (hpos : 0 < n) (hlt : n < P) : (n : ZMod P) ≠ 0 := by
  rw [Ne, ZMod.natCast_eq_zero_iff]
  exact Nat.not_dvd_of_pos_of_lt hpos hlt

theorem eq_zero_of_natCast_mul_pow_eq_zero {n k : Nat} {v : ZMod P} (hpos : 0 < n) (hlt : n < P)
    (h : (n : ZMod P) * v ^ k = 0) : v = 0 := by
  have hprime : Fact P.Prime := ⟨P_prime⟩
  exact eq_zero_of_pow_eq_zero ((mul_eq_zero.1 h).resolve_left (natCast_ne_zero_of_lt_P hpos hlt))

/-- R64's derivation: x' = 0 leaves x = -z and x = z, where z' is z⁴ times 16 (A24P - 1) and 16 A24P, neither of them a
multiple of P. -/
theorem eq_zero_of_doubling_eq_zero {x z : ZMod P} (hx : (x + z) ^ 2 * (x - z) ^ 2 = 0)
    (hz : 4 * x * z * ((x - z) ^ 2 + 121666 * (4 * x * z)) = 0) : x = 0 ∧ z = 0 := by
  have hprime : Fact P.Prime := ⟨P_prime⟩
  rcases mul_eq_zero.1 hx with hsum | hdiff
  · obtain rfl : x = -z := eq_neg_of_add_eq_zero_left (eq_zero_of_pow_eq_zero hsum)
    have hquartic : ((16 * 121665 : Nat) : ZMod P) * z ^ 4 = 0 := by
      push_cast
      linear_combination hz
    have hzero : z = 0 := eq_zero_of_natCast_mul_pow_eq_zero (by norm_num) (by norm_num [P_eq]) hquartic
    exact ⟨by rw [hzero, neg_zero], hzero⟩
  · obtain rfl : x = z := sub_eq_zero.1 (eq_zero_of_pow_eq_zero hdiff)
    have hquartic : ((16 * 121666 : Nat) : ZMod P) * x ^ 4 = 0 := by
      push_cast
      linear_combination hz
    have hzero : x = 0 := eq_zero_of_natCast_mul_pow_eq_zero (by norm_num) (by norm_num [P_eq]) hquartic
    exact ⟨hzero, hzero⟩

theorem double_eq_zero_iff {x z : FieldElt} (hx : Canonical x) (hz : Canonical z) :
    double x z = (0, 0) ↔ x = 0 ∧ z = 0 := by
  obtain ⟨hfst, hsnd⟩ := double_canonical x z
  rw [Prod.ext_iff, ← residue_eq_zero hfst, ← residue_eq_zero hsnd, ← residue_eq_zero hx, ← residue_eq_zero hz,
    residue_double_fst, residue_double_snd]
  constructor
  · rintro ⟨hx', hz'⟩
    exact eq_zero_of_doubling_eq_zero hx' hz'
  · rintro ⟨hxzero, hzzero⟩
    simp [hxzero, hzzero]

/-- Settles O39: a zero denominator is captured as 0, and (0, 0) is decided on the captured values. -/
theorem doublingInfinity : Obligations.DoublingInfinity := by
  refine ⟨fun x z hz => pointDouble_of_infinity hz x, ?fixed, fun x z => ?zero⟩
  case fixed =>
    rw [pointDouble_of_infinity rfl]
    exact congrArg (·, 0) (reduce_of_canonical canonical_one)
  case zero =>
    rw [pointDouble, double_eq_zero_iff (reduceWord_canonical x) (reduceWord_canonical z), reduceWord_eq_zero_iff,
      reduceWord_eq_zero_iff]

/-! ### The ladder's doubling half (R66) -/

/-- Settles O40: the x' are one product; in z', AA = BB + E turns AA + A24M E into BB + A24P E. -/
theorem doubleEqualsLadderDoublingHalf : Obligations.DoubleEqualsLadderDoublingHalf := by
  intro x1 x z q
  obtain ⟨hfst, hsnd⟩ := double_canonical x z
  obtain ⟨hx2, hz2, -, -⟩ := ladderStep_canonical x1 (x, z) q
  refine Prod.ext (eq_of_residue hx2 hfst ?_) (eq_of_residue hz2 hsnd ?_)
  · rw [residue_ladderStep_x2, residue_double_fst]
  · rw [residue_ladderStep_z2, residue_double_snd]
    ring

end Sys2Proof.Machine
end

section
/-! SUPPORT. The statements of spec/43_diff_add.md: DADD's call and its differential addition over the integers modulo P
(R67), the example that adds up to 3 times the base point, and the ladder's addition half (R70). -/

namespace Sys2Proof.Machine

/-! ### The differential addition on operand words (R67) -/

/-- R67's XA as an integer: the point's difference by the base point's sum. -/
def diffAddXA (x z : Int) : Int := (x - z) * (9 + 1)

/-- R67's XB as an integer: the point's sum by the base point's difference. -/
def diffAddXB (x z : Int) : Int := (x + z) * (9 - 1)

/-- DADD's x' as an integer, before its reduction (R67). -/
def diffAddX (x z prevZ : Int) : Int := prevZ * (diffAddXA x z + diffAddXB x z) ^ 2

/-- DADD's z' as an integer, before its reduction (R67). -/
def diffAddZ (x z prevX : Int) : Int := prevX * (diffAddXA x z - diffAddXB x z) ^ 2

theorem residue_pointAdd1_fst (x z a b : Word) :
    residue (pointAdd1 x z a b).1 = ((diffAddX x.toNat z.toNat b.toNat : Int) : ZMod P) := by
  simp only [pointAdd1, residue_diffAdd_fst, residue_reduceWord, diffAddX, diffAddXA, diffAddXB]
  push_cast
  ring

theorem residue_pointAdd1_snd (x z a b : Word) :
    residue (pointAdd1 x z a b).2 = ((diffAddZ x.toNat z.toNat a.toNat : Int) : ZMod P) := by
  simp only [pointAdd1, residue_diffAdd_snd, residue_reduceWord, diffAddZ, diffAddXA, diffAddXB]
  push_cast
  ring

/-- DADD as a whole: the addition's two integers, each reduced once; prevZ goes to x' and prevX to z' (R67). -/
theorem pointAdd1_eq_reduce (x z a b : Word) :
    pointAdd1 x z a b =
      (reduce (diffAddX x.toNat z.toNat b.toNat), reduce (diffAddZ x.toNat z.toNat a.toNat)) := by
  obtain ⟨hfst, hsnd⟩ := diffAdd_canonical (reduceWord x) (reduceWord z) (reduceWord a) (reduceWord b)
  refine Prod.ext (eq_of_residue hfst (reduce_canonical _) ?_) (eq_of_residue hsnd (reduce_canonical _) ?_)
  · exact (residue_pointAdd1_fst x z a b).trans (residue_reduce _).symm
  · exact (residue_pointAdd1_snd x z a b).trans (residue_reduce _).symm

/-- A START of DADD in IDLE and its one EXEC step (R67). -/
theorem daddCall {s : State} {x z a b : Word} (hidle : s.phase = .idle) (hx : s.opa = some x) (hz : s.opb = some z)
    (ha : s.opc = some a) (hb : s.opd = some b) :
    ∃ t, exec .dadd s = .next t ∧ t.iter = 0 ∧ seqStep t = .next (t.completeRatio (pointAdd1 x z a b)) :=
  ⟨_, exec_dadd_of_operands (State.phase_eq_idle.1 hidle) hx hz ha hb, rfl, seqStep_of_execDadd rfl⟩

/-! ### The example: 3 times the base point (R67) -/

/-- The double of the base point plus the base point, whose difference is the base point; neither integer reaches P. -/
theorem pointAdd1_double_base :
    pointAdd1 6400 157681440 9 1 = (0x16112956bb61000, 0x3ee27bed76d439000) := by
  rw [pointAdd1_eq_reduce]
  have hx : reduce (diffAddX 6400 157681440 1) = 0x16112956bb61000 :=
    reduce_eq_ofNat (n := 0x16112956bb61000) (by norm_num [P_eq]) (by norm_num [diffAddX, diffAddXA, diffAddXB])
  have hz : reduce (diffAddZ 6400 157681440 9) = 0x3ee27bed76d439000 :=
    reduce_eq_ofNat (n := 0x3ee27bed76d439000) (by norm_num [P_eq]) (by norm_num [diffAddZ, diffAddXA, diffAddXB])
  exact Prod.ext hx hz

/-- The affine X-coordinate of 3 times the base point (R67 example). -/
def threeBaseX : FieldElt := 0x1c12bc1a6d57abe645534d91c21bba64f8824e67621c0859c00a03affb713c12

theorem threeBaseX_canonical : Canonical threeBaseX := by
  simp [Canonical, threeBaseX, P_eq]

/-- The ladder's ratio for the scalar 3, a fixed run of 255 iterations: another representative than DADD's. -/
theorem pointMult_nine_three :
    pointMult 9 3 =
      (0x7efd317b6570c75767db33420ac59bef2d3100000000000127b3a10aa470cce4,
        0x1cb4ebb9c650a55c3828d34d6d52333b7d8900000000034aaa270bbc295288b5) := by
  decide +kernel

theorem pointAffine_pointAdd1_double_base :
    pointAffine 0x16112956bb61000 0x3ee27bed76d439000 = .ok threeBaseX := by
  have hne : (0x3ee27bed76d439000 : Word).toNat % P ≠ 0 := by simp [P_eq]
  exact (pointAffine_eq_ok_iff hne).2 ⟨threeBaseX_canonical, by simp [threeBaseX, P_eq]⟩

theorem pointAffine_pointMult_nine_three :
    pointAffine (zext256 (pointMult 9 3).1) (zext256 (pointMult 9 3).2) = .ok threeBaseX := by
  rw [pointMult_nine_three]
  have hne : (zext256 0x1cb4ebb9c650a55c3828d34d6d52333b7d8900000000034aaa270bbc295288b5).toNat % P ≠ 0 := by
    simp [zext256_toNat, P_eq]
  refine (pointAffine_eq_ok_iff hne).2 ⟨threeBaseX_canonical, ?_⟩
  simp [zext256_toNat, threeBaseX, P_eq]

/-- Settles O11: the call ends with the ratio `pointAdd1`, which is the addition's integers reduced; both representatives of
3 times the base point recover to `threeBaseX`. -/
theorem daddCallComputesDifferentialAddition : Obligations.DaddCallComputesDifferentialAddition := by
  refine ⟨rfl, fun s x z a b hidle hx hz ha hb => ?_, pointAdd1_double_base,
    pointAffine_pointAdd1_double_base, pointAffine_pointMult_nine_three⟩
  obtain ⟨t, hstart, hiter, hstep⟩ := daddCall hidle hx hz ha hb
  refine ⟨t, _, hstart, hstep, ?_, ?_, t.statusByte_completeRatio _, rfl, hiter, rfl⟩
  · rw [State.completeRatio_rx, pointAdd1_eq_reduce, zext256_reduce, diffAddX, diffAddXA, diffAddXB]
  · rw [State.completeRatio_rz, pointAdd1_eq_reduce, zext256_reduce, diffAddZ, diffAddXA, diffAddXB]

/-! ### The ladder's addition half (R70) -/

/-- Settles O41: with the base point as the even pair, the ladder's DA and CB are the very products XA and XB, formed in the
same order, so that both sides unfold to one expression. -/
theorem diffAddIsLadderAdditionHalf : Obligations.DiffAddIsLadderAdditionHalf := by
  intro x z prevX prevZ
  simp only [diffAdd, ladderStep]

end Sys2Proof.Machine
end

section
/-! SUPPORT. The statements of spec/44_ladder.md: the ITER and FINAL steps (R77, R79, R80), MULT's call (R81, R93), and the
ladder as a pure function: what it reads of its operands (R83), its degenerate inputs and its closed form for the scalar 1
(R86). -/

namespace Sys2Proof.Machine

/-! ### The ITER step over the integers modulo P (R77, R79) -/

/-- A canonical value is the remainder of any integer of its class. -/
theorem toNat_eq_emod {a : FieldElt} {v : Int} (ha : Canonical a) (h : residue a = v) : (a.toNat : Int) = v % P := by
  rw [eq_of_residue ha (reduce_canonical v) (h.trans (residue_reduce v).symm), reduce_toNat]

/-- The even pair's new z as an integer, before its reduction: E · (AA + A24M · E) (R77). -/
def ladderZ2 (x2 z2 : Int) : Int :=
  ((x2 + z2) ^ 2 - (x2 - z2) ^ 2) * ((x2 + z2) ^ 2 + 121665 * ((x2 + z2) ^ 2 - (x2 - z2) ^ 2))

/-- The odd pair's new x as an integer, before its reduction: (DA + CB)² (R77). -/
def ladderX3 (x2 z2 x3 z3 : Int) : Int := ((x3 - z3) * (x2 + z2) + (x3 + z3) * (x2 - z2)) ^ 2

/-- The odd pair's new z as an integer, before its reduction: X1 · (DA - CB)² (R77). -/
def ladderZ3 (x1 x2 z2 x3 z3 : Int) : Int := x1 * ((x3 - z3) * (x2 + z2) - (x3 + z3) * (x2 - z2)) ^ 2

/-- The combined step as a whole: R77's four integers, each reduced once; the even pair's new x is AA · BB, as in DBL. -/
theorem toNat_ladderStep (x1 : FieldElt) (p q : Ratio) :
    ((ladderStep x1 p q).1.1.toNat : Int) = doublingX p.1.toNat p.2.toNat % P ∧
    ((ladderStep x1 p q).1.2.toNat : Int) = ladderZ2 p.1.toNat p.2.toNat % P ∧
    ((ladderStep x1 p q).2.1.toNat : Int) = ladderX3 p.1.toNat p.2.toNat q.1.toNat q.2.toNat % P ∧
    ((ladderStep x1 p q).2.2.toNat : Int) = ladderZ3 x1.toNat p.1.toNat p.2.toNat q.1.toNat q.2.toNat % P := by
  obtain ⟨hx2, hz2, hx3, hz3⟩ := ladderStep_canonical x1 p q
  refine ⟨toNat_eq_emod hx2 ?x2, toNat_eq_emod hz2 ?z2, toNat_eq_emod hx3 ?x3, toNat_eq_emod hz3 ?z3⟩
  case x2 => rw [residue_ladderStep_x2, doublingX]; push_cast; rfl
  case z2 => rw [residue_ladderStep_z2, ladderZ2]; push_cast; rfl
  case x3 => rw [residue_ladderStep_x3, ladderX3]; push_cast; rfl
  case z3 => rw [residue_ladderStep_z3, ladderZ3]; push_cast; rfl

/-- Both coordinates of both pairs after a conditional swap, as integers (R76). -/
theorem toNat_cswap (b : Bool) (p q : Ratio) :
    ((cswap b p q).1.1.toNat : Int) = (if b then (q.1.toNat : Int) else p.1.toNat) ∧
    ((cswap b p q).1.2.toNat : Int) = (if b then (q.2.toNat : Int) else p.2.toNat) ∧
    ((cswap b p q).2.1.toNat : Int) = (if b then (p.1.toNat : Int) else q.1.toNat) ∧
    ((cswap b p q).2.2.toNat : Int) = (if b then (p.2.toNat : Int) else q.2.toNat) := by
  cases b <;> exact ⟨rfl, rfl, rfl, rfl⟩

/-- The state after an ITER step written out as one record update (R79). -/
theorem State.afterIter_eq (s : State) (r : LadderRegs) :
    s.afterIter r = { s with
      iter := BitVec.ofNat 8 (s.iter.toNat + 1),
      seq := if s.iter.toNat + 1 = 255 then .final (r.iterate (ladderBit r.kl s.iter.toNat))
             else .loop (r.iterate (ladderBit r.kl s.iter.toNat)) } := by
  have hiter : BitVec.ofNat 8 (s.iter.toNat + 1) = s.iter + 1 := by
    rw [BitVec.ofNat_add, BitVec.ofNat_toNat, BitVec.setWidth_eq]
    rfl
  rw [hiter]
  rfl

/-- Settles O15: the step is `afterIter`, whose accumulators are R77's integers of the swapped pairs. -/
theorem iterStepComputesCombinedStep : Obligations.IterStepComputesCombinedStep := by
  intro s r hs hlt k sw x2 z2 x3 z3 aa bb e da cb
  have hstep := seqStep_of_loop hs hlt
  have hbusy : s.busy = true := State.busy_eq_true.2 (by simp [hs])
  obtain ⟨hp1, hp2, hq1, hq2⟩ := toNat_cswap sw (r.x2, r.z2) (r.x3, r.z3)
  obtain ⟨hx2, hz2, hx3, hz3⟩ :=
    toNat_ladderStep r.x1 (cswap sw (r.x2, r.z2) (r.x3, r.z3)).1 (cswap sw (r.x2, r.z2) (r.x3, r.z3)).2
  rw [hp1, hp2] at hx2 hz2
  rw [hp1, hp2, hq1, hq2] at hx3 hz3
  refine ⟨r.iterate k, hstep.trans (congrArg _ (s.afterIter_eq r)), hx3, hz3, hx2, hz2, rfl, rfl, rfl, fun t ht => ?_⟩
  obtain rfl := Host.Outcome.next.inj (hstep.symm.trans ht)
  exact State.statusByte_afterIter hbusy r

/-! ### The FINAL step (R80) -/

theorem zext256_eq_ofNat (a : FieldElt) : zext256 a = BitVec.ofNat 256 a.toNat := (BitVec.ofNat_toNat 256 a).symm

theorem LadderRegs.result_eq_ite (r : LadderRegs) :
    r.result = (if r.swap then r.x3 else r.x2, if r.swap then r.z3 else r.z2) := by
  rw [LadderRegs.result]
  cases r.swap <;> rfl

/-- Settles O16: the step is `completeRatio` of the even pair; ITER and SWAP are the invariant's clause for FINAL. -/
theorem finalStepPublishesRatio : Obligations.FinalStepPublishesRatio := by
  intro s r hs
  have hstep := seqStep_of_final hs
  refine ⟨?publishes, fun t ht => ?status, fun hinv => ?invariant⟩
  case publishes =>
    rw [hstep, State.completeRatio, LadderRegs.result_eq_ite, zext256_eq_ofNat, zext256_eq_ofNat, apply_ite BitVec.toNat,
      apply_ite BitVec.toNat]
  case status =>
    obtain rfl := Host.Outcome.next.inj (hstep.symm.trans ht)
    exact s.statusByte_completeRatio r.result
  case invariant =>
    obtain ⟨hiter, -, hswap⟩ := (State.seqInv_of_final hs).1 hinv.seq
    exact ⟨BitVec.eq_of_toNat_eq hiter, hswap⟩

/-! ### What the ladder reads of its operands (R73, R83), and that it answers canonical values (R96) -/

theorem reduceWord_eq_of_mod_eq {x x' : Word} (h : x.toNat % P = x'.toNat % P) : reduceWord x = reduceWord x' :=
  eq_of_residue (reduceWord_canonical x) (reduceWord_canonical x') (by
    rw [residue_reduceWord, residue_reduceWord]
    exact (ZMod.natCast_eq_natCast_iff' _ _ _).2 h)

theorem low255_eq_of_mod_eq {n n' : Word} (h : n.toNat % 2 ^ 255 = n'.toNat % 2 ^ 255) : low255 n = low255 n' :=
  BitVec.eq_of_toNat_eq (by rw [low255, low255, BitVec.toNat_setWidth, BitVec.toNat_setWidth, h])

/-- Settles O44: the ladder runs on the captured X and the captured scalar alone. -/
theorem multReadsOperandsModulo : Obligations.MultReadsOperandsModulo := by
  intro x x' n n' hx hn
  rw [← LadderRegs.result_iterateFrom_seed x n, ← LadderRegs.result_iterateFrom_seed x' n', reduceWord_eq_of_mod_eq hx,
    low255_eq_of_mod_eq hn]

theorem LadderRegs.iterateFrom_canon (t : Nat) {r : LadderRegs} (h : r.Canon) : (r.iterateFrom t).Canon := by
  induction t generalizing r with
  | zero => exact h
  | succ t ih => exact ih (LadderRegs.iterate_canon h _)

theorem pointMult_canonical (x n : Word) : Canonical (pointMult x n).1 ∧ Canonical (pointMult x n).2 := by
  rw [← LadderRegs.result_iterateFrom_seed]
  exact LadderRegs.result_canonical (LadderRegs.iterateFrom_canon _ (LadderRegs.seed_canon (reduceWord_canonical x) _))

/-! ### The ladder without a swap flag

`pointMultLoop` leaves its pairs swapped by the last bit until the next trip swaps them back (R75). With each trip's swap
undone at its end, the first pair is the result so far, and a trip doubles the pair its bit names and puts the sum of both
in the place of the other. -/

/-- The sum of two pairs whose difference has affine X-coordinate `x1`: the odd half of the combined step (R77). -/
def ladderSum (x1 : FieldElt) (p q : Ratio) : Ratio := (ladderStep x1 p q).2

/-- One trip on the result so far and its companion. -/
def ladderTrip (x1 : FieldElt) (b : Bool) (pq : Ratio × Ratio) : Ratio × Ratio :=
  if b then (ladderSum x1 pq.1 pq.2, double pq.2.1 pq.2.2) else (double pq.1.1 pq.1.2, ladderSum x1 pq.1 pq.2)

theorem ladderTrip_false (x1 : FieldElt) (p q : Ratio) :
    ladderTrip x1 false (p, q) = (double p.1 p.2, ladderSum x1 p q) := rfl

theorem ladderTrip_true (x1 : FieldElt) (p q : Ratio) :
    ladderTrip x1 true (p, q) = (ladderSum x1 p q, double q.1 q.2) := rfl

/-- The trips for the bit indexes t - 1 down to 0. -/
def ladderTrips (x1 : FieldElt) (n : Nat) : Nat → Ratio × Ratio → Ratio × Ratio
  | 0, pq => pq
  | t + 1, pq => ladderTrips x1 n t (ladderTrip x1 (n.testBit t) pq)

theorem residue_ladderSum_fst (x1 : FieldElt) (p q : Ratio) :
    residue (ladderSum x1 p q).1 = 4 * (residue q.1 * residue p.1 - residue q.2 * residue p.2) ^ 2 := by
  rw [ladderSum, residue_ladderStep_x3]
  ring

theorem residue_ladderSum_snd (x1 : FieldElt) (p q : Ratio) :
    residue (ladderSum x1 p q).2 = 4 * residue x1 * (residue q.1 * residue p.2 - residue q.2 * residue p.1) ^ 2 := by
  rw [ladderSum, residue_ladderStep_z3]
  ring

theorem ladderSum_canonical (x1 : FieldElt) (p q : Ratio) :
    Canonical (ladderSum x1 p q).1 ∧ Canonical (ladderSum x1 p q).2 := by
  obtain ⟨-, -, hx3, hz3⟩ := ladderStep_canonical x1 p q
  exact ⟨hx3, hz3⟩

theorem ladderSum_comm (x1 : FieldElt) (p q : Ratio) : ladderSum x1 p q = ladderSum x1 q p := by
  obtain ⟨hfst, hsnd⟩ := ladderSum_canonical x1 p q
  obtain ⟨hfst', hsnd'⟩ := ladderSum_canonical x1 q p
  refine Prod.ext (eq_of_residue hfst hfst' ?_) (eq_of_residue hsnd hsnd' ?_)
  · rw [residue_ladderSum_fst, residue_ladderSum_fst]
    ring
  · rw [residue_ladderSum_snd, residue_ladderSum_snd]
    ring

theorem ladderStep_eq (x1 : FieldElt) (p q : Ratio) : ladderStep x1 p q = (double p.1 p.2, ladderSum x1 p q) :=
  Prod.ext (doubleEqualsLadderDoublingHalf x1 p.1 p.2 q) rfl

/-- What the pure function carries from trip to trip, its last swap undone. -/
def unswap (out : Ratio × Ratio × Bool) : Ratio × Ratio := cswap out.2.2 out.1 out.2.1

theorem cswap_xor (b c : Bool) (p q : Ratio) : cswap (b ^^ c) p q = cswap c (cswap b p q).1 (cswap b p q).2 := by
  cases b <;> cases c <;> rfl

/-- The combined step between a swap by the bit and the swap back. -/
theorem unswap_ladderStep_cswap (x1 : FieldElt) (b : Bool) (pq : Ratio × Ratio) :
    unswap ((ladderStep x1 (cswap b pq.1 pq.2).1 (cswap b pq.1 pq.2).2).1,
      (ladderStep x1 (cswap b pq.1 pq.2).1 (cswap b pq.1 pq.2).2).2, b) = ladderTrip x1 b pq := by
  cases b with
  | false =>
    rw [cswap_false, ladderStep_eq, ladderTrip_false]
    rfl
  | true =>
    rw [cswap_true, ladderStep_eq, ladderSum_comm, ladderTrip_true]
    rfl

theorem unswap_pointMultLoop (x1 : FieldElt) (n t : Nat) (p q : Ratio) (swap : Bool) :
    unswap (pointMultLoop x1 n t p q swap) = ladderTrips x1 n t (unswap (p, q, swap)) := by
  induction t generalizing p q swap with
  | zero => rfl
  | succ t ih =>
    rw [pointMultLoop, ih, cswap_xor, ladderTrips]
    exact congrArg _ (unswap_ladderStep_cswap x1 (n.testBit t) (cswap swap p q))

/-- `pointMult` as the trips on infinity and the point itself (R72, R81). -/
theorem pointMult_eq_ladderTrips (x n : Word) :
    pointMult x n = (ladderTrips (reduceWord x) n.toNat curve.nbits ((1, 0), (reduceWord x, 1))).1 :=
  congrArg Prod.fst (unswap_pointMultLoop (reduceWord x) n.toNat curve.nbits (1, 0) (reduceWord x, 1) false)

/-! ### Degenerate inputs (R86) -/

/-- Infinity, as the ladder seeds it, doubles to itself (R64, R72). -/
theorem double_infinity : double 1 0 = (1, 0) := by
  have hone : fsq 1 = 1 := reduce_of_canonical canonical_one
  rw [double_zero_right, hone, hone]

theorem double_zero_zero : double 0 0 = (0, 0) := (double_eq_zero_iff canonical_zero canonical_zero).2 ⟨rfl, rfl⟩

theorem ladderSum_zero_left (x1 : FieldElt) (q : Ratio) : ladderSum x1 (0, 0) q = (0, 0) := by
  obtain ⟨hfst, hsnd⟩ := ladderSum_canonical x1 (0, 0) q
  refine Prod.ext ((residue_eq_zero hfst).1 ?_) ((residue_eq_zero hsnd).1 ?_)
  · rw [residue_ladderSum_fst, residue_zero]
    ring
  · rw [residue_ladderSum_snd, residue_zero]
    ring

/-- With X1 = 0, infinity and a companion with x = 0 add up to (0, 0). -/
theorem ladderSum_zero_infinity (v : FieldElt) : ladderSum 0 (1, 0) (0, v) = (0, 0) := by
  obtain ⟨hfst, hsnd⟩ := ladderSum_canonical 0 (1, 0) (0, v)
  refine Prod.ext ((residue_eq_zero hfst).1 ?_) ((residue_eq_zero hsnd).1 ?_)
  · rw [residue_ladderSum_fst, residue_zero]
    ring
  · rw [residue_ladderSum_snd, residue_zero]
    ring

theorem ladderTrip_false_infinity (x1 : FieldElt) (q : Ratio) :
    ladderTrip x1 false ((1, 0), q) = ((1, 0), ladderSum x1 (1, 0) q) := by
  rw [ladderTrip_false, double_infinity]

/-- Zero bits leave the result so far at infinity (R86). -/
theorem ladderTrips_fst_of_zero_bits {n t : Nat} (hbits : ∀ i < t, n.testBit i = false) (x1 : FieldElt) (q : Ratio) :
    (ladderTrips x1 n t ((1, 0), q)).1 = (1, 0) := by
  induction t generalizing q with
  | zero => rfl
  | succ t ih =>
    rw [ladderTrips, hbits t (Nat.lt_succ_self t), ladderTrip_false_infinity]
    exact ih (fun i hi => hbits i (Nat.lt_succ_of_lt hi)) _

/-- Once the result so far is (0, 0), it stays: its double and every sum with it are (0, 0). -/
theorem ladderTrips_fst_of_zero_pair (x1 : FieldElt) (n t : Nat) (q : Ratio) :
    (ladderTrips x1 n t ((0, 0), q)).1 = (0, 0) := by
  induction t generalizing q with
  | zero => rfl
  | succ t ih =>
    rw [ladderTrips]
    cases n.testBit t with
    | false =>
      rw [ladderTrip_false, double_zero_zero]
      exact ih _
    | true =>
      rw [ladderTrip_true, ladderSum_zero_left]
      exact ih _

/-- With X1 = 0 the first set bit makes the result so far (0, 0) (R86). -/
theorem ladderTrips_zero_fst_of_set_bit {n t : Nat} (hbit : ∃ i < t, n.testBit i = true) (v : FieldElt) :
    (ladderTrips 0 n t ((1, 0), (0, v))).1 = (0, 0) := by
  induction t generalizing v with
  | zero =>
    obtain ⟨i, hi, -⟩ := hbit
    exact absurd hi (Nat.not_lt_zero i)
  | succ t ih =>
    rw [ladderTrips]
    cases htop : n.testBit t with
    | true =>
      rw [ladderTrip_true, ladderSum_zero_infinity]
      exact ladderTrips_fst_of_zero_pair 0 n t _
    | false =>
      rw [ladderTrip_false_infinity, ladderSum_zero_infinity]
      obtain ⟨i, hi, hset⟩ := hbit
      have hne : i ≠ t := by
        rintro rfl
        exact absurd hset (Bool.eq_false_iff.1 htop)
      exact ih ⟨i, by omega, hset⟩ 0

theorem mod_two_pow_eq_zero_iff {n k : Nat} : n % 2 ^ k = 0 ↔ ∀ i < k, n.testBit i = false := by
  constructor
  · intro h i hi
    simpa [h, hi] using (Nat.testBit_mod_two_pow n k i).symm
  · intro h
    refine Nat.eq_of_testBit_eq fun i => ?_
    rw [Nat.testBit_mod_two_pow, Nat.zero_testBit]
    by_cases hi : i < k <;> simp [hi, h]

/-- Settles O45: zero bits keep infinity; with X ≡ 0 the first set bit leaves (0, 0) for good. -/
theorem multDegenerateInputs : Obligations.MultDegenerateInputs := by
  refine ⟨fun x n hn => ?zeroScalar, fun x n hx hn => ?zeroX⟩
  case zeroScalar =>
    rw [pointMult_eq_ladderTrips]
    exact ladderTrips_fst_of_zero_bits (mod_two_pow_eq_zero_iff.1 hn) _ _
  case zeroX =>
    have hset : ∃ i < 255, n.toNat.testBit i = true := by
      rw [Ne, mod_two_pow_eq_zero_iff] at hn
      push Not at hn
      simpa using hn
    rw [pointMult_eq_ladderTrips, reduceWord_eq_zero_iff.2 hx]
    exact ladderTrips_zero_fst_of_set_bit hset 1

/-! ### The scalar 1 (R86) -/

/-- Behind zero bits the trips only add infinity to the companion, and so does the last one, for the set bit. -/
theorem ladderTrips_one_fst (x1 : FieldElt) (t : Nat) (q : Ratio) :
    (ladderTrips x1 1 (t + 1) ((1, 0), q)).1 = (ladderSum x1 (1, 0))^[t + 1] q := by
  induction t generalizing q with
  | zero => rfl
  | succ t ih =>
    have hbit : Nat.testBit 1 (t + 1) = false :=
      Bool.eq_false_iff.2 (mt Nat.testBit_one_eq_true_iff_self_eq_zero.1 (Nat.succ_ne_zero t))
    rw [ladderTrips, hbit, ladderTrip_false_infinity]
    exact ih _

/-- The companion after `j` additions of infinity: (X · (4X)^(2^j - 1), (4X)^(2^j - 1)). -/
theorem residue_iterate_ladderSum_infinity (x1 : FieldElt) (j : Nat) :
    residue ((ladderSum x1 (1, 0))^[j] (x1, 1)).1 = residue x1 * (4 * residue x1) ^ (2 ^ j - 1) ∧
    residue ((ladderSum x1 (1, 0))^[j] (x1, 1)).2 = (4 * residue x1) ^ (2 ^ j - 1) := by
  induction j with
  | zero =>
    rw [Nat.pow_zero, Nat.sub_self, pow_zero, mul_one]
    exact ⟨rfl, residue_one⟩
  | succ j ih =>
    obtain ⟨hfst, hsnd⟩ := ih
    have hexp : 2 ^ (j + 1) - 1 = 2 * (2 ^ j - 1) + 1 := by
      have := Nat.one_le_two_pow (n := j)
      rw [pow_succ]
      omega
    rw [Function.iterate_succ_apply', residue_ladderSum_fst, residue_ladderSum_snd, hfst, hsnd, residue_zero,
      residue_one, hexp]
    constructor <;> ring

/-- Fermat: 2^255 - 1 is P + 18 (R49). -/
theorem pow_two_pow_255_sub_one (v : ZMod P) : v ^ (2 ^ 255 - 1) = v ^ 19 := by
  have hprime : Fact P.Prime := ⟨P_prime⟩
  have hexp : 2 ^ 255 - 1 = P + 18 := by norm_num [P_eq]
  rw [hexp, pow_add, ZMod.pow_card]
  ring

/-- Settles O46: 255 additions of infinity to the point, and Fermat's theorem. -/
theorem multByOneClosedForm : Obligations.MultByOneClosedForm := by
  intro x
  have hrun : pointMult x 1 = (ladderSum (reduceWord x) (1, 0))^[255] (reduceWord x, 1) :=
    (pointMult_eq_ladderTrips x 1).trans (ladderTrips_one_fst (reduceWord x) 254 _)
  obtain ⟨hfst, hsnd⟩ := residue_iterate_ladderSum_infinity (reduceWord x) 255
  rw [← hrun, pow_two_pow_255_sub_one, residue_reduceWord] at hfst hsnd
  obtain ⟨hcfst, hcsnd⟩ := pointMult_canonical x 1
  refine Prod.ext (eq_of_residue hcfst (reduce_canonical _) ?_) (eq_of_residue hcsnd (reduce_canonical _) ?_)
  · rw [hfst, residue_reduce]
    push_cast
    ring
  · rw [hsnd, residue_reduce]
    push_cast
    ring

/-! ### MULT's call (R81, R93) -/

/-- The known answer, by the closed form: neither integer reaches P (R90). -/
theorem pointMult_nine_one : pointMult 9 1 = (0x2a2e2d148a47fa084000000000, 0x4afcc1eba07ff564000000000) := by
  rw [multByOneClosedForm]
  have hx : reduce (2 ^ 38 * 9 ^ 20) = 0x2a2e2d148a47fa084000000000 :=
    reduce_eq_ofNat (n := 0x2a2e2d148a47fa084000000000) (by norm_num [P_eq]) (by norm_num)
  have hz : reduce (2 ^ 38 * 9 ^ 19) = 0x4afcc1eba07ff564000000000 :=
    reduce_eq_ofNat (n := 0x4afcc1eba07ff564000000000) (by norm_num [P_eq]) (by norm_num)
  exact Prod.ext hx hz

/-- Settles O14: START seeds the ladder, whose 256 steps are `seqRun_mult`. -/
theorem multCallComputesPointMult : Obligations.MultCallComputesPointMult := by
  refine ⟨rfl, fun s x n hidle hx hn => ?_, pointMult_nine_one⟩
  exact ⟨_, _, exec_mult_of_operands (State.phase_eq_idle.1 hidle) hx hn, seqRun_mult s x n, rfl, rfl,
    State.statusByte_completeRatio _ _, rfl, rfl, rfl⟩

end Sys2Proof.Machine
end

section
/-! SUPPORT. The statements of spec/45_properties.md on results: that they are canonical (R96), when two ratios recover to one
X-coordinate (R94), and what the ladder recovers to for the scalars 1 and 2 and in the spec's examples (R87 to R90). -/

namespace Sys2Proof.Machine

/- The whole text compiles near the memory limit, most of it thread stacks: these proofs run on the main thread, so that they
take no further thread's memory. -/
set_option Elab.async false

/-! ### Canonical words (R96) -/

theorem toNat_reduceWord (w : Word) : (reduceWord w).toNat = w.toNat % P := by
  have hint : ((reduceWord w).toNat : Int) = (w.toNat : Int) % P := reduce_toNat _
  exact_mod_cast hint

theorem getLsbD_255_of_lt_P {w : Word} (h : w.toNat < P) : w.getLsbD 255 = false :=
  Nat.testBit_lt_two_pow (h.trans P_lt)

theorem State.Inv.result_lt {s : State} (hinv : s.Inv) {w : Word} (hw : s.rx = some w ∨ s.rz = some w) : w.toNat < P :=
  hw.elim (hinv.rx w) (hinv.rz w)

/-- Settles O34: the step keeps the invariant, by which a result is below P, and the rest is arithmetic of such a word. -/
theorem resultsAreCanonical : Obligations.ResultsAreCanonical := by
  intro s t w hinv hstep hw
  have hlt := (seqStep_keeps_inv hinv hstep).result_lt hw
  have hmod := Nat.mod_eq_of_lt hlt
  exact ⟨hlt, getLsbD_255_of_lt_P hlt, by rw [hmod]; exact BitVec.toNat_inj (y := 0), (toNat_reduceWord w).trans hmod⟩

/-! ### Equality of ratios (R94) -/

/-- With v the value of the first ratio, x1 = v z1, so that the cross products agree exactly when v z2 = x2. -/
theorem fmul_eq_fmul_iff_affine_eq {x1 z1 x2 z2 : FieldElt} (hz1 : Canonical z1) (hz2 : Canonical z2) (hne1 : z1 ≠ 0)
    (hne2 : z2 ≠ 0) : fmul x1 z2 = fmul x2 z1 ↔ affine x1 z1 = affine x2 z2 := by
  have hprime : Fact P.Prime := ⟨P_prime⟩
  obtain ⟨v, hv⟩ := exists_affine_eq_ok hz1 hne1 x1
  obtain ⟨hcanon, hmul⟩ := (affine_eq_ok_iff hz1 hne1).1 hv
  have hcancel : residue x1 * residue z2 = residue x2 * residue z1 ↔ residue v * residue z2 = residue x2 := by
    rw [← hmul, mul_right_comm, mul_left_inj' (mt (residue_eq_zero hz1).1 hne1)]
  rw [hv, eq_comm (a := Except.ok v), affine_eq_ok_iff hz2 hne2, and_iff_right hcanon, ← hcancel, ← residue_fmul,
    ← residue_fmul]
  exact ⟨congrArg residue, eq_of_residue (fmul_canonical _ _) (fmul_canonical _ _)⟩

/-! ### Recovery of a ratio fed back as operands -/

theorem pointAffine_zext256 {x z : FieldElt} (hx : Canonical x) (hz : Canonical z) :
    pointAffine (zext256 x) (zext256 z) = affine x z := by
  rw [pointAffine, reduceWord_zext256 hx, reduceWord_zext256 hz]

theorem pointAffine_pointMult (x n : Word) :
    pointAffine (zext256 (pointMult x n).1) (zext256 (pointMult x n).2) = affine (pointMult x n).1 (pointMult x n).2 := by
  obtain ⟨hfst, hsnd⟩ := pointMult_canonical x n
  exact pointAffine_zext256 hfst hsnd

/-- A recovery's value by the numbers: the denominator times it is the numerator modulo P. -/
theorem affine_eq_ok_of_toNat {x z v : FieldElt} (hz : Canonical z) (hne : z ≠ 0) (hv : Canonical v)
    (hmul : v.toNat * z.toNat % P = x.toNat % P) : affine x z = .ok v := by
  refine (affine_eq_ok_iff hz hne).2 ⟨hv, ?_⟩
  rw [residue, residue, residue, ← Nat.cast_mul]
  exact (ZMod.natCast_eq_natCast_iff' _ _ _).2 hmul

/-! ### The scalar 1 (R87, R90) -/

theorem natCast_word_ne_zero {x : Word} (hx : x.toNat % P ≠ 0) : (x.toNat : ZMod P) ≠ 0 := by
  rwa [Ne, ZMod.natCast_eq_zero_iff, Nat.dvd_iff_mod_eq_zero]

/-- Settles O47: the closed form's quotient is X, its denominator 2³⁸ X¹⁹ being 0 for X ≡ 0 alone. -/
theorem multByOneRecoversX : Obligations.MultByOneRecoversX := by
  have hprime : Fact P.Prime := ⟨P_prime⟩
  refine ⟨fun x hx => ?recovers, fun x hx => ?degenerate⟩
  case recovers =>
    have htwo : (2 : ZMod P) ≠ 0 := natCast_ne_zero_of_lt_P (n := 2) (by norm_num) (by norm_num [P_eq])
    have hdenominator : reduce (2 ^ 38 * (x.toNat : Int) ^ 19) ≠ 0 := by
      rw [Ne, ← residue_eq_zero (reduce_canonical _), residue_reduce, Int.cast_mul, Int.cast_pow, Int.cast_pow,
        Int.cast_natCast, Int.cast_ofNat]
      exact mul_ne_zero (pow_ne_zero _ htwo) (pow_ne_zero _ (natCast_word_ne_zero hx))
    rw [pointAffine_pointMult, multByOneClosedForm, affine_eq_ok_iff (reduce_canonical _) hdenominator]
    refine ⟨reduceWord_canonical x, ?_⟩
    rw [residue_reduceWord, residue_reduce, residue_reduce]
    push_cast
    ring
  case degenerate =>
    have hzero : pointMult x 1 = (0, 0) := multDegenerateInputs.2 x 1 hx (by decide)
    exact ⟨hzero, by rw [pointAffine_pointMult, hzero, affine_zero]⟩

theorem reduceWord_nine : reduceWord 9 = 9 := reduce_of_canonical (a := 9) nine_lt_P

/-- Settles O48: the ratio is the known answer of the closed form, and the recovery is Property 1 at the base point. -/
theorem knownAnswerBasePoint : Obligations.KnownAnswerBasePoint := by
  have hne : (9 : Word).toNat % P ≠ 0 := by simp [P_eq]
  exact ⟨pointMult_nine_one, reduceWord_nine ▸ multByOneRecoversX.1 9 hne⟩

/-! ### Leading zero bits

Only up to a common factor does the ladder see the zero bits above a scalar's first set bit: they scale the companion. -/

/-- Two pairs that are one ratio: the first is the second times a factor other than 0. -/
def SameRatio (p q : Ratio) : Prop :=
  ∃ l : ZMod P, l ≠ 0 ∧ residue p.1 = l * residue q.1 ∧ residue p.2 = l * residue q.2

theorem SameRatio.refl (p : Ratio) : SameRatio p p := by
  have hprime : Fact P.Prime := ⟨P_prime⟩
  exact ⟨1, one_ne_zero, (one_mul _).symm, (one_mul _).symm⟩

/-- The doubling law is homogeneous of degree 4 (R65). -/
theorem SameRatio.double {p q : Ratio} (h : SameRatio p q) : SameRatio (double p.1 p.2) (double q.1 q.2) := by
  have hprime : Fact P.Prime := ⟨P_prime⟩
  obtain ⟨l, hl, hfst, hsnd⟩ := h
  refine ⟨l ^ 4, pow_ne_zero 4 hl, ?_, ?_⟩
  · rw [residue_double_fst, residue_double_fst, hfst, hsnd]
    ring
  · rw [residue_double_snd, residue_double_snd, hfst, hsnd]
    ring

/-- The ladder's sum is homogeneous of degree 2 in each of its pairs. -/
theorem SameRatio.ladderSum {p p' q q' : Ratio} (x1 : FieldElt) (hp : SameRatio p p') (hq : SameRatio q q') :
    SameRatio (ladderSum x1 p q) (ladderSum x1 p' q') := by
  have hprime : Fact P.Prime := ⟨P_prime⟩
  obtain ⟨l, hl, hpfst, hpsnd⟩ := hp
  obtain ⟨m, hm, hqfst, hqsnd⟩ := hq
  refine ⟨l ^ 2 * m ^ 2, mul_ne_zero (pow_ne_zero 2 hl) (pow_ne_zero 2 hm), ?_, ?_⟩
  · rw [residue_ladderSum_fst, residue_ladderSum_fst, hpfst, hpsnd, hqfst, hqsnd]
    ring
  · rw [residue_ladderSum_snd, residue_ladderSum_snd, hpfst, hpsnd, hqfst, hqsnd]
    ring

theorem SameRatio.ladderTrips {p p' q q' : Ratio} (x1 : FieldElt) (n t : Nat) (hp : SameRatio p p') (hq : SameRatio q q') :
    SameRatio (ladderTrips x1 n t (p, q)).1 (ladderTrips x1 n t (p', q')).1 := by
  induction t generalizing p p' q q' with
  | zero => exact hp
  | succ t ih =>
    rw [Machine.ladderTrips, Machine.ladderTrips]
    cases n.testBit t with
    | false => exact ih hp.double (hp.ladderSum x1 hq)
    | true => exact ih (hp.ladderSum x1 hq) hq.double

/-- Pairs that are one ratio recover to one value. -/
theorem SameRatio.affine_eq_ok {p q : Ratio} {v : FieldElt} (h : SameRatio p q) (hp : Canonical p.2) (hq : Canonical q.2)
    (hne : q.2 ≠ 0) (hv : affine q.1 q.2 = .ok v) : affine p.1 p.2 = .ok v := by
  have hprime : Fact P.Prime := ⟨P_prime⟩
  obtain ⟨l, hl, hfst, hsnd⟩ := h
  obtain ⟨hcanon, hmul⟩ := (affine_eq_ok_iff hq hne).1 hv
  have hpne : p.2 ≠ 0 := by
    rw [Ne, ← residue_eq_zero hp, hsnd]
    exact mul_ne_zero hl (mt (residue_eq_zero hq).1 hne)
  exact (affine_eq_ok_iff hp hpne).2 ⟨hcanon, by rw [hfst, hsnd, mul_left_comm, hmul]⟩

/-- Zero bits above the scalar's bits only add infinity to the companion. -/
theorem ladderTrips_of_lt_two_pow {n k : Nat} (hn : n < 2 ^ k) (x1 : FieldElt) (j : Nat) (q : Ratio) :
    ladderTrips x1 n (k + j) ((1, 0), q) = ladderTrips x1 n k ((1, 0), (ladderSum x1 (1, 0))^[j] q) := by
  induction j generalizing q with
  | zero => rfl
  | succ j ih =>
    have hbit : n.testBit (k + j) = false :=
      Nat.testBit_lt_two_pow (hn.trans_le (Nat.pow_le_pow_right two_pos (Nat.le_add_right k j)))
    rw [← Nat.add_assoc, ladderTrips, hbit, ladderTrip_false_infinity]
    exact ih _

theorem four_mul_residue_ne_zero {x : FieldElt} (hx : Canonical x) (hne : x ≠ 0) : 4 * residue x ≠ 0 := by
  have hprime : Fact P.Prime := ⟨P_prime⟩
  have hfour : (4 : ZMod P) ≠ 0 := natCast_ne_zero_of_lt_P (n := 4) (by norm_num) (by norm_num [P_eq])
  exact mul_ne_zero hfour (mt (residue_eq_zero hx).1 hne)

/-- For an X other than 0, the ladder on a scalar's own bits gives the ladder's ratio. -/
theorem pointMult_sameRatio {x n : Word} {k j : Nat} (hx : reduceWord x ≠ 0) (hn : n.toNat < 2 ^ k)
    (hkj : k + j = curve.nbits) :
    SameRatio (pointMult x n) (ladderTrips (reduceWord x) n.toNat k ((1, 0), (reduceWord x, 1))).1 := by
  have hprime : Fact P.Prime := ⟨P_prime⟩
  have hne := four_mul_residue_ne_zero (reduceWord_canonical x) hx
  obtain ⟨hfst, hsnd⟩ := residue_iterate_ladderSum_infinity (reduceWord x) j
  rw [pointMult_eq_ladderTrips, ← hkj, ladderTrips_of_lt_two_pow hn]
  refine (SameRatio.refl _).ladderTrips _ _ _ ⟨_, pow_ne_zero (2 ^ j - 1) hne, ?_, ?_⟩
  · rw [hfst, mul_comm]
  · rw [hsnd, residue_one, mul_one]

/-! ### The scalar 2 (R88, R94) -/

/-- Fermat: four times 2^254 - 1 is 2 P + 34 (R49). -/
theorem pow_two_pow_254_sub_one_pow_four (v : ZMod P) : (v ^ (2 ^ 254 - 1)) ^ 4 = v ^ 36 := by
  have hprime : Fact P.Prime := ⟨P_prime⟩
  have hexp : (2 ^ 254 - 1) * 4 = P * 2 + 34 := by norm_num [P_eq]
  rw [← pow_mul, hexp, pow_add, pow_mul, ZMod.pow_card]
  ring

/-- The common factor (4X)³⁶ by which the ladder's ratio for the scalar 2 differs from DBL's. -/
def multByTwoScale (x : FieldElt) : FieldElt := reduce ((4 * (x.toNat : Int)) ^ 36)

theorem residue_multByTwoScale (x : FieldElt) : residue (multByTwoScale x) = (4 * residue x) ^ 36 := by
  rw [multByTwoScale, residue_reduce, residue]
  push_cast
  rfl

theorem multByTwoScale_canonical (x : FieldElt) : Canonical (multByTwoScale x) := reduce_canonical _

theorem multByTwoScale_ne_zero {x : FieldElt} (hx : Canonical x) (hne : x ≠ 0) : multByTwoScale x ≠ 0 := by
  have hprime : Fact P.Prime := ⟨P_prime⟩
  rw [Ne, ← residue_eq_zero (multByTwoScale_canonical x), residue_multByTwoScale]
  exact pow_ne_zero 36 (four_mul_residue_ne_zero hx hne)

/-- The two trips of the scalar 2: the set bit makes the companion, with infinity added, the result so far, and the zero bit
doubles it. -/
theorem ladderTrips_two (x1 : FieldElt) (q : Ratio) :
    (ladderTrips x1 2 2 ((1, 0), q)).1 = double (ladderSum x1 (1, 0) q).1 (ladderSum x1 (1, 0) q).2 := rfl

/-- The closed form for the scalar 2: the ladder doubles the companion (X c, c) with c = (4X)^(2^254 - 1), which scales the
double of (X, 1) by c⁴. -/
theorem pointMult_two (x : Word) :
    pointMult x 2 = (fmul (multByTwoScale (reduceWord x)) (double (reduceWord x) 1).1,
      fmul (multByTwoScale (reduceWord x)) (double (reduceWord x) 1).2) := by
  obtain ⟨hfst, hsnd⟩ := residue_iterate_ladderSum_infinity (reduceWord x) 254
  have hscale := pow_two_pow_254_sub_one_pow_four (4 * residue (reduceWord x))
  have hrun : pointMult x 2 = (ladderTrips (reduceWord x) 2 2 ((1, 0), _)).1 :=
    (pointMult_eq_ladderTrips x 2).trans
      (congrArg Prod.fst (ladderTrips_of_lt_two_pow (by decide) (reduceWord x) 253 (reduceWord x, 1)))
  rw [Function.iterate_succ_apply'] at hfst hsnd
  rw [hrun, ladderTrips_two]
  generalize ladderSum (reduceWord x) (1, 0) _ = q at hfst hsnd
  generalize (4 * residue (reduceWord x)) ^ (2 ^ 254 - 1) = c at hfst hsnd hscale
  obtain ⟨hcfst, hcsnd⟩ := double_canonical q.1 q.2
  refine Prod.ext (eq_of_residue hcfst (fmul_canonical _ _) ?_) (eq_of_residue hcsnd (fmul_canonical _ _) ?_)
  · rw [residue_double_fst, residue_fmul, residue_multByTwoScale, residue_double_fst, residue_one, hfst, hsnd, ← hscale]
    ring
  · rw [residue_double_snd, residue_fmul, residue_multByTwoScale, residue_double_snd, residue_one, hfst, hsnd, ← hscale]
    ring

theorem reduceWord_one : reduceWord 1 = 1 := reduce_of_canonical (a := 1) canonical_one

/-- The base point's two doubles differ by the factor 36³⁶. -/
theorem pointMult_nine_two :
    pointMult 9 2 = (fmul (multByTwoScale 9) (pointDouble 9 1).1, fmul (multByTwoScale 9) (pointDouble 9 1).2) := by
  rw [pointMult_two, pointDouble, reduceWord_nine, reduceWord_one]

theorem pointMult_nine_two_ne_pointDouble : pointMult 9 2 ≠ pointDouble 9 1 := by
  intro h
  rw [pointMult_nine_two, pointDouble_nine_one] at h
  have hfst := congrArg (residue ·.1) h
  rw [residue_fmul, residue_multByTwoScale] at hfst
  have hnat : (((4 * 9) ^ 36 * 6400 : Nat) : ZMod P) = (6400 : Nat) := by exact_mod_cast hfst
  rw [ZMod.natCast_eq_natCast_iff', P_eq] at hnat
  norm_num at hnat

/-- Settles O43: the criterion is cancellation in the field, and the base point's two doubles differ by the ladder's factor
for the scalar 2. -/
theorem crossMultiplicationDecidesEquality : Obligations.CrossMultiplicationDecidesEquality := by
  refine ⟨fun x1 z1 x2 z2 _ hz1 _ hz2 hne1 hne2 =>
    ⟨fmul_eq_fmul_iff_affine_eq hz1 hz2 hne1 hne2, exists_affine_eq_ok hz1 hne1 x1⟩, pointDouble_nine_one,
    pointMult_nine_two_ne_pointDouble, ?_⟩
  have hcanon : Canonical (pointDouble 9 1).2 := (double_canonical _ _).2
  have hscale := multByTwoScale_ne_zero (x := 9) nine_lt_P (by decide)
  rw [pointMult_nine_two, affine_fmul_fmul (multByTwoScale_canonical 9) hscale hcanon]

theorem fmul_zero (a : FieldElt) : fmul a 0 = 0 :=
  (residue_eq_zero (fmul_canonical _ _)).1 (by rw [residue_fmul, residue_zero, mul_zero])

theorem fmul_ne_zero {a b : FieldElt} (ha : Canonical a) (hb : Canonical b) (hane : a ≠ 0) (hbne : b ≠ 0) :
    fmul a b ≠ 0 :=
  mt (fmul_eq_zero_iff ha hb).1 (not_or.2 ⟨hane, hbne⟩)

theorem double_zero_left_snd (z : FieldElt) : (double 0 z).2 = 0 := by
  rw [← residue_eq_zero (double_canonical 0 z).2, residue_double_snd, residue_zero]
  ring

/-- DBL at a ratio of affine value `v` is the double of (v, 1), scaled by z⁴ (R65). -/
theorem pointDouble_of_pointAffine {x z : Word} {v : FieldElt} (hz : z.toNat % P ≠ 0) (hv : pointAffine x z = .ok v) :
    pointDouble x z = (fmul (fsq (fsq (reduceWord z))) (double v 1).1, fmul (fsq (fsq (reduceWord z))) (double v 1).2) := by
  have hmul := residue_mul_of_affine_eq_ok (reduceWord_canonical z) (mt reduceWord_eq_zero_iff.1 hz) hv
  have hx : reduceWord x = fmul (reduceWord z) v :=
    eq_of_residue (reduceWord_canonical x) (fmul_canonical _ _) (by rw [residue_fmul, mul_comm, hmul])
  rw [← double_fmul_fmul, ← hx, fmul_one (reduceWord_canonical z), pointDouble]

/-- Settles O49: both ratios are multiples of the double of (Xa, 1), by factors that are 0 only where its z is 0. -/
theorem doublingAgreesWithLadder : Obligations.DoublingAgreesWithLadder := by
  intro x z hz
  obtain ⟨xa, hxa⟩ := exists_pointAffine_eq_ok hz x
  refine ⟨xa, hxa, ?_⟩
  intro d m
  have hreduce : reduceWord (zext256 xa) = xa := reduceWord_zext256 (affine_ok_canonical hxa)
  have hd : d = _ := pointDouble_of_pointAffine hz hxa
  have hm : m = _ := pointMult_two (zext256 xa)
  rw [hreduce] at hm
  by_cases hzero : (double xa 1).2 = 0
  case pos =>
    have hd2 : d.2 = 0 := by rw [hd, hzero, fmul_zero]
    have hm2 : m.2 = 0 := by rw [hm, hzero, fmul_zero]
    exact ⟨fun hne => absurd hd2 hne, fun _ => ⟨by rw [hd2, affine_zero], by rw [hm2, affine_zero]⟩⟩
  case neg =>
    have hcanon := (double_canonical xa 1).2
    have hxne : xa ≠ 0 := by
      rintro rfl
      exact hzero (double_zero_left_snd 1)
    have hzne := fsq_ne_zero (fsq_canonical _) (fsq_ne_zero (reduceWord_canonical z) (mt reduceWord_eq_zero_iff.1 hz))
    have hscale := multByTwoScale_ne_zero (affine_ok_canonical hxa) hxne
    have hd2 : d.2 ≠ 0 := by rw [hd]; exact fmul_ne_zero (fsq_canonical _) hcanon hzne hzero
    have hm2 : m.2 ≠ 0 := by rw [hm]; exact fmul_ne_zero (multByTwoScale_canonical xa) hcanon hscale hzero
    obtain ⟨v, hv⟩ := exists_affine_eq_ok hcanon hzero (double xa 1).1
    refine ⟨fun _ => ⟨hm2, v, ?_, ?_⟩, fun h => absurd h hd2⟩
    · rw [hd, affine_fmul_fmul (fsq_canonical _) hzne hcanon, hv]
    · rw [hm, affine_fmul_fmul (multByTwoScale_canonical xa) hscale hcanon, hv]

/-! ### The scalars 3 and 5, the spec's example (R89) -/

/-- The short ladder's ratio for the scalar 5 at 3 times the base point. -/
theorem ladderTrips_threeBaseX_five :
    (ladderTrips threeBaseX 5 3 ((1, 0), (threeBaseX, 1))).1 =
      (0x7038dd7da00dd9f678de9e7b3771d7b6b0a3031bffb4380c9d6ec61271c95892,
        0x43d2ba23ddec63780df91e37cb14fa3f312aa5c42e44102f14fcf0639c4ce55) := by
  decide +kernel

/-- The short ladder's ratio for the scalar 15 at the base point. -/
theorem ladderTrips_nine_fifteen :
    (ladderTrips 9 15 4 ((1, 0), (9, 1))).1 =
      (0x177ddcfd0ceabf2b4840a7095f4668d6a03a2c8a6eab37c9038815481e5215d7,
        0x14bc4e00bf6e31c224bdeab209271cf06b6815090d511fee3ae7068bcb10d55b) := by
  decide +kernel

/-- Settles O50: both short ladders' ratios recover to the spec's value, and so do the ladders'. -/
theorem threeThenFiveIsFifteen : Obligations.ThreeThenFiveIsFifteen := by
  refine ⟨threeBaseX, pointAffine_pointMult_nine_three, ?five, ?fifteen⟩ <;> rw [pointAffine_pointMult]
  case five =>
    have hreduce : reduceWord (zext256 threeBaseX) = threeBaseX := reduceWord_zext256 threeBaseX_canonical
    have hsame := pointMult_sameRatio (n := 5) (k := 3) (j := 252) (hreduce.trans_ne (by decide)) (by decide) rfl
    rw [hreduce, show (5 : Word).toNat = 5 from rfl, ladderTrips_threeBaseX_five] at hsame
    refine hsame.affine_eq_ok (pointMult_canonical _ _).2 ?_ (by decide) (affine_eq_ok_of_toNat ?_ (by decide) ?_ ?_)
    all_goals simp [P_eq]
  case fifteen =>
    have hsame := pointMult_sameRatio (n := 15) (k := 4) (j := 251) (reduceWord_nine.trans_ne (by decide)) (by decide) rfl
    rw [reduceWord_nine, show (15 : Word).toNat = 15 from rfl, ladderTrips_nine_fifteen] at hsame
    refine hsame.affine_eq_ok (pointMult_canonical _ _).2 ?_ (by decide) (affine_eq_ok_of_toNat ?_ (by decide) ?_ ?_)
    all_goals simp [P_eq]

end Sys2Proof.Machine
end

section
/-! SUPPORT. Whatever the host does meanwhile, but for RESET, a call ends alike (spec/45_properties.md R92): what START
captures, that a sequencer step reads the call's view alone, and that the view a call will end with is kept by every event. -/

namespace Sys2Proof.Machine

/- The whole text compiles near the memory limit, most of it thread stacks: these proofs run on the main thread, so that they
take no further thread's memory. -/
set_option Elab.async false

/-! ### What START captures (R43) -/

/-- The sequencer's state that the START of a command captures from the operand registers' values. -/
def captured (i : Instr) (v : OperandReg → Word) : Sequencer :=
  match i with
  | .mult => .loop (LadderRegs.seed (reduceWord (v .opa)) (low255 (v .k)))
  | .dbl => .execDbl (reduceWord (v .opa)) (reduceWord (v .opb))
  | .dadd => .execDadd (reduceWord (v .opa)) (reduceWord (v .opb)) (reduceWord (v .opc)) (reduceWord (v .opd))
  | .aff => .execAff (reduceWord (v .opa)) (reduceWord (v .opb))

theorem exec_eq_accept_captured {i : Instr} {s : State} {v : OperandReg → Word} (hs : s.seq = .idle)
    (hop : ∀ r ∈ need i, s.operand r = some (v r)) : exec i s = .next (s.accept (captured i v)) := by
  cases i with
  | mult => exact exec_mult_of_operands hs (hop _ (by simp [need])) (hop _ (by simp [need]))
  | dbl => exact exec_dbl_of_operands hs (hop _ (by simp [need])) (hop _ (by simp [need]))
  | dadd =>
    exact exec_dadd_of_operands hs (hop _ (by simp [need])) (hop _ (by simp [need])) (hop _ (by simp [need]))
      (hop _ (by simp [need]))
  | aff => exact exec_aff_of_operands hs (hop _ (by simp [need])) (hop _ (by simp [need]))

theorem captured_ne_idle (i : Instr) (v : OperandReg → Word) : captured i v ≠ .idle := by
  cases i <;> simp [captured]

theorem State.stepsLeft_accept_captured (s : State) (i : Instr) (v : OperandReg → Word) :
    (s.accept (captured i v)).stepsLeft = callSteps i := by
  cases i <;> rfl

/-- The state behind an accepted START meets the invariant, whatever the state before it was. -/
theorem State.inv_accept_captured (s : State) (i : Instr) (v : OperandReg → Word) : (s.accept (captured i v)).Inv := by
  refine State.inv_accept ?_
  cases i with
  | mult =>
    exact (State.seqInv_of_loop rfl).2
      ⟨by simp [curve_nbits_eq], LadderRegs.seed_canon (reduceWord_canonical _) _, rfl⟩
  | dbl => exact (State.seqInv_of_execDbl rfl).2 ⟨rfl, reduceWord_canonical _, reduceWord_canonical _⟩
  | dadd =>
    exact (State.seqInv_of_execDadd rfl).2
      ⟨rfl, reduceWord_canonical _, reduceWord_canonical _, reduceWord_canonical _, reduceWord_canonical _⟩
  | aff => exact (State.seqInv_of_execAff rfl).2 ⟨rfl, reduceWord_canonical _, reduceWord_canonical _⟩

/-! ### The call's view -/

theorem State.callView_eq_iff {s s' : State} : s.callView = s'.callView ↔
    s.rx = s'.rx ∧ s.rz = s'.rz ∧ s.statusByte = s'.statusByte ∧ s.iter = s'.iter ∧ s.seq = s'.seq := by
  simp only [State.callView, Prod.mk.injEq]

/-- STATUS tells DONE (R15). -/
theorem State.done_eq_of_callView_eq {s s' : State} (h : s.callView = s'.callView) : s.done = s'.done := by
  obtain ⟨-, -, hstatus, -, -⟩ := State.callView_eq_iff.1 h
  have hnumber := congrArg BitVec.toNat hstatus
  rw [State.toNat_statusByte, State.toNat_statusByte] at hnumber
  have hbusy := s.busy.toNat_le
  have hbusy' := s'.busy.toNat_le
  have hdone := s.done.toNat_le
  have hdone' := s'.done.toNat_le
  rw [Bool.eq_iff_iff, ← Bool.toNat_eq_one, ← Bool.toNat_eq_one]
  omega

theorem State.stepsLeft_eq_of_callView_eq {s s' : State} (h : s.callView = s'.callView) : s.stepsLeft = s'.stepsLeft := by
  obtain ⟨-, -, -, hiter, hseq⟩ := State.callView_eq_iff.1 h
  rw [State.stepsLeft, State.stepsLeft, hseq, hiter]

@[simp] theorem State.callView_note (s : State) (r : HostReg) (v : Word) : (s.note r v).callView = s.callView := rfl

theorem State.callView_accept (s s' : State) (q : Sequencer) : (s.accept q).callView = (s'.accept q).callView := rfl

theorem State.callView_completeRatio {s s' : State} (hiter : s.iter = s'.iter) (p : Ratio) :
    (s.completeRatio p).callView = (s'.completeRatio p).callView :=
  State.callView_eq_iff.2 ⟨rfl, rfl, rfl, hiter, rfl⟩

theorem State.callView_completeAffine {s s' : State} (hiter : s.iter = s'.iter) (x : FieldElt) :
    (s.completeAffine x).callView = (s'.completeAffine x).callView :=
  State.callView_eq_iff.2 ⟨rfl, rfl, rfl, hiter, rfl⟩

theorem State.callView_raise {s s' : State} (hiter : s.iter = s'.iter) (e : ErrCode) :
    (s.raise e).callView = (s'.raise e).callView :=
  State.callView_eq_iff.2 ⟨rfl, rfl, rfl, hiter, rfl⟩

/-- An iteration on equal views. -/
theorem State.callView_afterIter {s s' : State} {r : LadderRegs} (h : s.callView = s'.callView) (hs : s.seq = .loop r) :
    (s.afterIter r).callView = (s'.afterIter r).callView := by
  obtain ⟨hrx, hrz, hstatus, hiter, hseq⟩ := State.callView_eq_iff.1 h
  have hbusy : s.busy = true := State.busy_eq_true.2 (by simp [hs])
  have hbusy' : s'.busy = true := State.busy_eq_true.2 (by simp [← hseq, hs])
  refine State.callView_eq_iff.2 ⟨hrx, hrz, ?_, congrArg (· + 1) hiter, ?_⟩
  · rw [State.statusByte_afterIter hbusy, State.statusByte_afterIter hbusy', hstatus]
  · rw [State.afterIter, State.afterIter, hiter]
    rfl

/-- A sequencer's turn reads and changes the call's view alone: on equal views it answers equal views (R11, R36). -/
theorem seqStep_callView {s s' t : State} (h : s.callView = s'.callView) (hstep : seqStep s = .next t) :
    ∃ t', seqStep s' = .next t' ∧ t'.callView = t.callView := by
  obtain ⟨-, -, -, hiter, hseq⟩ := State.callView_eq_iff.1 h
  rcases seqStep_next hstep with ⟨hs, rfl⟩ | ⟨r, hs, hlt, rfl⟩ | ⟨r, hs, rfl⟩ | ⟨x, z, hs, rfl⟩ | ⟨x, z, a, b, hs, rfl⟩ |
    ⟨x, z, v, hs, hv, rfl⟩ | ⟨x, z, e, hs, he, rfl⟩ <;> rw [hseq] at hs
  · exact ⟨s', seqStep_of_idle hs, h.symm⟩
  · exact ⟨s'.afterIter r, seqStep_of_loop hs (hiter ▸ hlt), (State.callView_afterIter h (hseq.trans hs)).symm⟩
  · exact ⟨_, seqStep_of_final hs, (State.callView_completeRatio hiter _).symm⟩
  · exact ⟨_, seqStep_of_execDbl hs, (State.callView_completeRatio hiter _).symm⟩
  · exact ⟨_, seqStep_of_execDadd hs, (State.callView_completeRatio hiter _).symm⟩
  · exact ⟨_, seqStep_of_execAff_ok hs hv, (State.callView_completeAffine hiter _).symm⟩
  · exact ⟨_, seqStep_of_execAff_error hs he, (State.callView_raise hiter _).symm⟩

theorem seqRun_callView {n : Nat} {s s' u : State} (h : s.callView = s'.callView) (hrun : seqRun n s = .next u) :
    ∃ u', seqRun n s' = .next u' ∧ u'.callView = u.callView := by
  induction n generalizing s s' with
  | zero =>
    obtain rfl := Host.Outcome.next.inj hrun
    exact ⟨s', rfl, h.symm⟩
  | succ n ih =>
    obtain ⟨t, ht, hrest⟩ := seqRun_succ_next hrun
    obtain ⟨t', ht', hview⟩ := seqStep_callView h ht
    obtain ⟨u', hu', hend⟩ := ih hview.symm hrest
    exact ⟨u', by rw [seqRun_succ ht', hu'], hend⟩

/-! ### The view a call ends with -/

/-- The steps the call has left, with no host event between them, end it with the view of `c`. -/
def State.EndsAs (s c : State) : Prop := ∃ u, seqRun s.stepsLeft s = .next u ∧ u.callView = c.callView

theorem State.EndsAs.of_callView_eq {s s' c : State} (h : s.EndsAs c) (hview : s.callView = s'.callView) : s'.EndsAs c := by
  obtain ⟨u, hrun, hu⟩ := h
  obtain ⟨u', hrun', hu'⟩ := seqRun_callView hview hrun
  exact ⟨u', by rw [← State.stepsLeft_eq_of_callView_eq hview, hrun'], hu'.trans hu⟩

/-- A running call that ends at all takes its next step, and then ends in the same way. -/
theorem State.EndsAs.seqStep_next {s c : State} (h : s.EndsAs c) (hbusy : s.busy = true) :
    ∃ t, seqStep s = .next t ∧ t.EndsAs c ∧ t.stepsLeft + 1 = s.stepsLeft := by
  obtain ⟨u, hrun, hu⟩ := h
  have hpos : s.stepsLeft ≠ 0 := mt State.stepsLeft_eq_zero.1 (State.busy_eq_true.1 hbusy)
  obtain ⟨n, hn⟩ := Nat.exists_eq_succ_of_ne_zero hpos
  rw [hn] at hrun
  obtain ⟨t, ht, hrest⟩ := seqRun_succ_next hrun
  have hleft := seqStep_stepsLeft hbusy ht
  have htn : t.stepsLeft = n := by omega
  exact ⟨t, ht, ⟨u, by rw [htn, hrest], hu⟩, hleft⟩

theorem State.EndsAs.callView_eq_of_idle {s c : State} (h : s.EndsAs c) (hidle : s.busy = false) :
    s.callView = c.callView := by
  obtain ⟨u, hrun, hu⟩ := h
  rw [State.stepsLeft_eq_zero.2 (State.busy_eq_false.1 hidle)] at hrun
  rwa [Host.Outcome.next.inj hrun]

/-- Two accepted STARTs with the same captured values end in the same way, with DONE 1. -/
theorem exists_endsAs_of_accept (i : Instr) (v : OperandReg → Word) :
    ∃ c : State, c.done = true ∧ ∀ s : State, (s.accept (captured i v)).EndsAs c := by
  have hbusy := State.busy_accept State.reset (captured_ne_idle i v)
  obtain ⟨c, hrun, -, hdone⟩ := (State.reset.inv_accept_captured i v).seqRun_stepsLeft (by simp [hbusy])
  exact ⟨c, hdone, fun s => State.EndsAs.of_callView_eq ⟨c, hrun, rfl⟩ (State.callView_accept _ _ _)⟩

/-- The START line of a command whose registers hold values, in IDLE (R43). -/
theorem step_start_eq_accept {i : Instr} {s : State} {v : OperandReg → Word} {rest : List HostLine} (hidle : s.phase = .idle)
    (hop : ∀ r ∈ need i, s.operand r = some (v r)) (hs : s.script = .start (encodeCode i) :: rest) :
    step s = .next ((s.setScript rest).accept (captured i v)) := by
  rw [step_of_start hs, decodeCode_encodeCode]
  exact exec_eq_accept_captured (State.phase_eq_idle.1 hidle) fun r hr => by rw [State.operand_setScript, hop r hr]

/-- Values on which two machines agree, as one assignment of values to registers. -/
theorem exists_common_operands {i : Instr} {s s' : State}
    (h : ∀ r ∈ need i, ∃ v, s.operand r = some v ∧ s'.operand r = some v) :
    ∃ v : OperandReg → Word, (∀ r ∈ need i, s.operand r = some (v r)) ∧ ∀ r ∈ need i, s'.operand r = some (v r) := by
  refine ⟨fun r => (s.operand r).getD 0, fun r hr => ?_, fun r hr => ?_⟩ <;> obtain ⟨v, hv, hv'⟩ := h r hr
  · simp [hv]
  · simp [hv, hv']

/-! ### Any host but for RESET -/

theorem runSteps_succ_next {n : Nat} {s u : State} (h : runSteps (n + 1) s = .next u) :
    ∃ t, step s = .next t ∧ runSteps n t = .next u := by
  cases hs : step s <;> simp only [runSteps, hs] at h
  case next t => exact ⟨t, rfl, h⟩
  all_goals cases h

/-- What an event without a RESET line does to a running call: it leaves the view alone, or it is the sequencer's turn. -/
theorem step_of_busy_cases {s t : State} (hbusy : s.busy = true) (hreset : .reset ∉ s.script) (h : step s = .next t) :
    t.script <:+ s.script ∧ (t.callView = s.callView ∨ ∃ ls, seqStep (s.setScript ls) = .next t) := by
  cases hs : s.script with
  | nil =>
    rw [step_of_nil hs] at h
    exact ⟨by rw [seqStep_script h, hs], .inr ⟨s.script, h⟩⟩
  | cons l rest =>
    have hsuffix : rest <:+ l :: rest := List.suffix_cons l rest
    cases l with
    | wr r v =>
      rw [step_of_wr hs] at h
      obtain ⟨w, rfl⟩ := hostWrite_next h
      exact ⟨by simp, .inl (by simp)⟩
    | start code =>
      rw [step_of_start hs, exec_of_busy (s := s.setScript rest) (State.busy_eq_true.1 hbusy)] at h
      obtain rfl := Host.Outcome.next.inj h
      exact ⟨hsuffix, .inl rfl⟩
    | wait =>
      rw [step_of_wait hs] at h
      cases hdone : s.done with
      | true =>
        rw [hostWait_of_done hdone] at h
        obtain rfl := Host.Outcome.next.inj h
        exact ⟨hsuffix, .inl rfl⟩
      | false =>
        rw [hostWait_of_not_done hdone] at h
        exact ⟨by rw [seqStep_script h, hs], .inr ⟨s.script, h⟩⟩
    | rd r =>
      rw [step_of_rd hs] at h
      obtain ⟨v, rfl⟩ := hostReadLine_next h
      exact ⟨hsuffix, .inl rfl⟩
    | reset => exact absurd (hs ▸ List.mem_cons_self) hreset
    | tick =>
      rw [step_of_tick hs] at h
      exact ⟨by rw [seqStep_script h]; exact hsuffix, .inr ⟨rest, h⟩⟩

/-- Every event but RESET keeps the view a running call will end with. -/
theorem State.EndsAs.of_step {s t c : State} (h : s.EndsAs c) (hbusy : s.busy = true) (hreset : .reset ∉ s.script)
    (hstep : step s = .next t) : t.EndsAs c := by
  obtain ⟨-, hview | ⟨ls, hturn⟩⟩ := step_of_busy_cases hbusy hreset hstep
  · exact h.of_callView_eq hview.symm
  · have hls : (s.setScript ls).EndsAs c := h.of_callView_eq (s.callView_setScript ls).symm
    obtain ⟨t', ht', hends, -⟩ := hls.seqStep_next hbusy
    obtain rfl := Host.Outcome.next.inj (hturn.symm.trans ht')
    exact hends

/-- The first state of a run in which the core is no longer busy shows the view the call was to end with. -/
theorem State.EndsAs.callView_of_run {m : Nat} {s u c : State} (h : s.EndsAs c) (hreset : .reset ∉ s.script)
    (hrun : runSteps m s = .next u) (hidle : u.busy = false)
    (hbusy : ∀ j v, j < m → runSteps j s = .next v → v.busy = true) : u.callView = c.callView := by
  induction m generalizing s with
  | zero =>
    obtain rfl := Host.Outcome.next.inj hrun
    exact h.callView_eq_of_idle hidle
  | succ m ih =>
    have hsbusy : s.busy = true := hbusy 0 s (Nat.succ_pos m) rfl
    obtain ⟨t, ht, hrest⟩ := runSteps_succ_next hrun
    obtain ⟨hsuffix, -⟩ := step_of_busy_cases hsbusy hreset ht
    exact ih (h.of_step hsbusy hreset ht) (fun hmem => hreset (hsuffix.subset hmem)) hrest fun j v hj hv =>
      hbusy (j + 1) v (Nat.succ_lt_succ hj) (by rw [runSteps_succ j ht, hv])

/-- The same for a run that begins with the START line of a command. -/
theorem callView_of_started_run {i : Instr} {v : OperandReg → Word} {s u c : State} {rest : List HostLine} {n : Nat}
    (hc : ∀ s : State, (s.accept (captured i v)).EndsAs c) (hphase : s.phase = .idle)
    (hop : ∀ r ∈ need i, s.operand r = some (v r)) (hs : s.script = .start (encodeCode i) :: rest) (hreset : .reset ∉ rest)
    (hn : 0 < n) (hrun : runSteps n s = .next u) (hidle : u.busy = false)
    (hbusy : ∀ j w, 0 < j → j < n → runSteps j s = .next w → w.busy = true) : u.callView = c.callView := by
  have hstart := step_start_eq_accept hphase hop hs
  obtain ⟨m, rfl⟩ := Nat.exists_eq_succ_of_ne_zero hn.ne'
  rw [Nat.succ_eq_add_one, runSteps_succ m hstart] at hrun
  exact (hc (s.setScript rest)).callView_of_run hreset hrun hidle fun j w hj hw =>
    hbusy (j + 1) w (Nat.succ_pos j) (Nat.succ_lt_succ hj) (by rw [runSteps_succ j hstart, hw])

/-- Settles O51: both STARTs capture the same values, so that both runs come to the one view those end with. -/
theorem callResultIsTheSameUnderAnyHost : Obligations.CallResultIsTheSameUnderAnyHost := by
  intro i s s' u u' rest rest' n n' hphase hphase' hop hs hs' hreset hreset' hn hrun hidle hbusy hn' hrun' hidle' hbusy'
  obtain ⟨v, hv, hv'⟩ := exists_common_operands hop
  obtain ⟨c, hdone, hc⟩ := exists_endsAs_of_accept i v
  have hu := callView_of_started_run hc hphase hv hs hreset hn hrun hidle hbusy
  have hu' := callView_of_started_run hc hphase' hv' hs' hreset' hn' hrun' hidle' hbusy'
  exact ⟨hu.trans hu'.symm, (State.done_eq_of_callView_eq hu).trans hdone⟩

/-! ### Quiet hosts -/

/-- A quiet line other than a turn is never refused in a running call, and leaves its view alone (R28, R36). -/
theorem step_of_quiet {s : State} {l : HostLine} {rest : List HostLine} (hbusy : s.busy = true) (hquiet : l.quiet = true)
    (htick : l ≠ .tick) (hs : s.script = l :: rest) :
    ∃ t, step s = .next t ∧ t.callView = s.callView ∧ t.script = rest := by
  cases l with
  | wr r v =>
    cases v with
    | lit w => exact ⟨_, step_of_wr hs, by simp, by simp⟩
    | noted back => cases hquiet
  | start code =>
    exact ⟨_, (step_of_start hs).trans (exec_of_busy (s := s.setScript rest) (State.busy_eq_true.1 hbusy) _), rfl, rfl⟩
  | rd r =>
    cases r
    case status => exact ⟨_, step_of_rd_some hs rfl, rfl, rfl⟩
    case iter => exact ⟨_, step_of_rd_some hs rfl, rfl, rfl⟩
    all_goals cases hquiet
  | tick => exact absurd rfl htick
  | wait => cases hquiet
  | reset => cases hquiet

/-- A `tick` line in a running call is one of the steps it had left. -/
theorem State.EndsAs.step_tick {s c : State} {rest : List HostLine} (h : s.EndsAs c) (hbusy : s.busy = true)
    (hs : s.script = .tick :: rest) :
    ∃ t, step s = .next t ∧ t.EndsAs c ∧ t.script = rest ∧ t.stepsLeft + 1 = s.stepsLeft := by
  have hrest : (s.setScript rest).EndsAs c := h.of_callView_eq (s.callView_setScript rest).symm
  obtain ⟨t, ht, hends, hleft⟩ := hrest.seqStep_next hbusy
  exact ⟨t, (step_of_tick hs).trans ht, hends, seqStep_script ht, hleft⟩

/-- Quiet lines with fewer turns than the call has steps left run without a stop, and leave the call its other steps. -/
theorem State.EndsAs.runSteps_quiet {s c : State} {pre rest : List HostLine} (h : s.EndsAs c)
    (hquiet : ∀ l ∈ pre, l.quiet = true) (hcount : pre.count .tick < s.stepsLeft) (hs : s.script = pre ++ rest) :
    ∃ t, runSteps pre.length s = .next t ∧ t.EndsAs c ∧ t.script = rest ∧
      t.stepsLeft + pre.count .tick = s.stepsLeft := by
  induction pre generalizing s with
  | nil => exact ⟨s, rfl, h, hs, rfl⟩
  | cons l pre ih =>
    obtain ⟨hl, hpre⟩ := List.forall_mem_cons.1 hquiet
    have hbusy : s.busy = true := State.busy_of_stepsLeft_pos (by omega)
    by_cases htick : l = .tick
    case pos =>
      subst htick
      rw [List.count_cons_self] at hcount ⊢
      obtain ⟨v, hv, hends, hscript, hleft⟩ := h.step_tick hbusy hs
      obtain ⟨t, hrun, hend, hrest, hsum⟩ := ih hends hpre (by omega) hscript
      exact ⟨t, (runSteps_succ _ hv).trans hrun, hend, hrest, by omega⟩
    case neg =>
      rw [List.count_cons_of_ne htick] at hcount ⊢
      obtain ⟨v, hv, hview, hscript⟩ := step_of_quiet hbusy hl htick hs
      have hleft := State.stepsLeft_eq_of_callView_eq hview
      obtain ⟨t, hrun, hend, hrest, hsum⟩ := ih (h.of_callView_eq hview.symm) hpre (by omega) hscript
      exact ⟨t, (runSteps_succ _ hv).trans hrun, hend, hrest, by omega⟩

/-- A whole call under a quiet host: its START, the quiet lines, and the turn that ends it. -/
theorem runSteps_quiet_call {i : Instr} {v : OperandReg → Word} {s c : State} {pre rest : List HostLine}
    (hc : ∀ s : State, (s.accept (captured i v)).EndsAs c) (hphase : s.phase = .idle)
    (hop : ∀ r ∈ need i, s.operand r = some (v r)) (hquiet : ∀ l ∈ pre, l.quiet = true)
    (hcount : pre.count .tick + 1 = callSteps i) (hs : s.script = .start (encodeCode i) :: pre ++ .tick :: rest) :
    ∃ u, runSteps (pre.length + 2) s = .next u ∧ u.callView = c.callView ∧ u.script = rest := by
  have hstart := step_start_eq_accept hphase hop (hs.trans List.cons_append)
  have hleft := State.stepsLeft_accept_captured (s.setScript (pre ++ .tick :: rest)) i v
  obtain ⟨t, hrun, hends, hscript, hsum⟩ := (hc (s.setScript (pre ++ .tick :: rest))).runSteps_quiet hquiet (by omega) rfl
  obtain ⟨u, hu, huends, hurest, huleft⟩ := hends.step_tick (State.busy_of_stepsLeft_pos (by omega)) hscript
  have hidle : u.busy = false := State.busy_eq_false.2 (State.stepsLeft_eq_zero.1 (by omega))
  refine ⟨u, ?_, huends.callView_eq_of_idle hidle, hurest⟩
  rw [runSteps_succ _ hstart, runSteps_add _ 1 hrun, runSteps_succ 0 hu]
  rfl

/-- Settles O21: both quiet calls end with the one view that the captured values end with. -/
theorem callResultDependsOnlyOnOperands : Obligations.CallResultDependsOnlyOnOperands := by
  intro i s s' pre pre' rest rest' hphase hphase' hop hquiet hquiet' hcount hcount' hs hs'
  obtain ⟨v, hv, hv'⟩ := exists_common_operands hop
  obtain ⟨c, hdone, hc⟩ := exists_endsAs_of_accept i v
  obtain ⟨u, hrun, hview, hrest⟩ := runSteps_quiet_call hc hphase hv hquiet hcount hs
  obtain ⟨u', hrun', hview', hrest'⟩ := runSteps_quiet_call hc hphase' hv' hquiet' hcount' hs'
  exact ⟨u, u', hrun, hrun', hview.trans hview'.symm, (State.done_eq_of_callView_eq hview).trans hdone, hrest, hrest'⟩

end Sys2Proof.Machine
end

section
/-! SUPPORT. The statements of spec/60_exceptions.md: which error code each command's call ends with (R102), and that a failed
AFF is precise and fails again in the same way (R106, R107). -/

namespace Sys2Proof.Machine

/- The whole text compiles near the memory limit: these proofs too run on the main thread, which saves another thread's stack. -/
set_option Elab.async false

/-! ### A failed AFF (R106, R107) -/

/-- The EXEC step of an accepted AFF on a denominator that is 0 modulo P (R99, R106). -/
theorem seqStep_accept_execAff_of_degenerate {z : Word} (hz : z.toNat % P = 0) (s : State) (x : Word) :
    seqStep (s.accept (.execAff (reduceWord x) (reduceWord z))) =
      .next ((s.accept (.execAff (reduceWord x) (reduceWord z))).raise .degenerateRatio) :=
  seqStep_of_execAff_error rfl (pointAffine_of_degenerate hz x)

/-- A START clears what the error left, and the same error leaves it again: nothing else was written (R106, R107). -/
theorem State.raise_accept_raise_accept (s : State) (q : Sequencer) (e : ErrCode) :
    (((s.accept q).raise e).accept q).raise e = (s.accept q).raise e := rfl

/-- Settles O13: the step after either START is `raise` on what START accepted, and the second START and error restore the
first one's state. -/
theorem failedAffIsPreciseAndRepeats : Obligations.FailedAffIsPreciseAndRepeats := by
  intro s x z hidle hx hz hzero
  refine ⟨_, _, exec_aff_of_operands (State.phase_eq_idle.1 hidle) hx hz,
    seqStep_accept_execAff_of_degenerate hzero s x, rfl, State.statusByte_raise_degenerate _, rfl, rfl, rfl, rfl, rfl, rfl,
    rfl, ?_⟩
  refine ⟨_, exec_aff_of_operands rfl hx hz, rfl, rfl, ?_⟩
  rw [seqStep_accept_execAff_of_degenerate hzero, State.raise_accept_raise_accept]

/-! ### Error codes (R102) -/

theorem seqRun_one (s : State) : seqRun 1 s = seqStep s := seqRun_succ_last rfl

/-- The EXEC step of AFF ends with code 0 or 1: on a canonical denominator the field unit never inverts zero (R100, R102). -/
theorem err_of_seqStep_execAff {s u : State} {x z : FieldElt} (hs : s.seq = .execAff x z) (hz : Canonical z)
    (h : seqStep s = .next u) : u.err = .none ∨ u.err = .degenerateRatio := by
  cases hres : affine x z with
  | ok v =>
    obtain rfl := Host.Outcome.next.inj ((seqStep_of_execAff_ok hs hres).symm.trans h)
    exact .inl rfl
  | error e =>
    obtain rfl := Host.Outcome.next.inj ((seqStep_of_execAff_error hs hres).symm.trans h)
    exact .inr (affine_error_of_canonical hz hres)

/-- Settles O20: the calls of MULT, DBL and DADD end with `completeRatio`, whose ERR is 0; AFF's one step is the lemma
above. -/
theorem errorCodesByCommand : Obligations.ErrorCodesByCommand := by
  intro i s t u hidle hstart hrun
  have hs := State.phase_eq_idle.1 hidle
  cases i with
  | mult =>
    obtain ⟨x, n, rfl⟩ := execMult_next hs hstart
    obtain rfl := Host.Outcome.next.inj ((seqRun_mult s x n).symm.trans hrun)
    rfl
  | dbl =>
    obtain ⟨x, z, rfl⟩ := execDbl_next hs hstart
    obtain rfl := Host.Outcome.next.inj ((seqStep_of_execDbl rfl).symm.trans ((seqRun_one _).symm.trans hrun))
    rfl
  | dadd =>
    obtain ⟨x, z, a, b, rfl⟩ := execDadd_next hs hstart
    obtain rfl := Host.Outcome.next.inj ((seqStep_of_execDadd rfl).symm.trans ((seqRun_one _).symm.trans hrun))
    rfl
  | aff =>
    obtain ⟨x, z, rfl⟩ := execAff_next hs hstart
    exact err_of_seqStep_execAff rfl (reduceWord_canonical z) ((seqRun_one _).symm.trans hrun)

end Sys2Proof.Machine
end

section
/-! SUPPORT. The statements of spec/70_reset_and_hazards.md: when a START is accepted (R118, R119), how long every accepted call
runs (R121), that no event faults under the invariant (R97, R121), and RESET in any phase (R115, R116). -/

namespace Sys2Proof.Machine

/- The whole text compiles near the memory limit: these proofs too run on the main thread, which saves another thread's stack. -/
set_option Elab.async false

/-! ### Accepted STARTs (R118, R119) -/

/-- In IDLE, a START that answers a next state found a value in every register the command reads. -/
theorem operand_of_exec_next {i : Instr} {s t : State} (hs : s.seq = .idle) (h : exec i s = .next t) :
    ∀ r ∈ need i, ∃ v, s.operand r = some v := by
  intro r hr
  refine Option.ne_none_iff_exists'.1 fun hnone => ?_
  obtain ⟨e, he⟩ := exec_refused_iff.2 ⟨State.phase_eq_idle.2 hs, r, hr, hnone⟩
  simp [h] at he

/-- Settles O9: a START that changed the state to a busy one was not ignored, so it found IDLE and all its operands; where it
finds them, the accepted state is busy and the idle one before it was not. -/
theorem startAcceptedExactlyWhenReady : Obligations.StartAcceptedExactlyWhenReady := by
  intro i s
  constructor
  · rintro ⟨t, h, hne, -⟩
    rcases exec_next h with ⟨-, hsame⟩ | ⟨hs, -⟩
    · exact absurd hsame hne
    · exact ⟨State.phase_eq_idle.2 hs, operand_of_exec_next hs h⟩
  · rintro ⟨hidle, hop⟩
    have hs := State.phase_eq_idle.1 hidle
    obtain ⟨t, h⟩ := exec_accepted_of_operands hs fun r hr => Option.ne_none_iff_exists'.2 (hop r hr)
    obtain ⟨q, hq, rfl, -⟩ := exec_next_of_idle hs h
    have hbusy := s.busy_accept hq
    refine ⟨_, h, fun heq => ?_, hbusy⟩
    rw [heq, State.busy_eq_false.2 hs] at hbusy
    cases hbusy

/-! ### The length of a call (R121) -/

/-- An accepted START captured the command's registers at some values. -/
theorem exec_next_eq_accept_captured {i : Instr} {s t : State} (hs : s.seq = .idle) (h : exec i s = .next t) :
    ∃ v, t = s.accept (captured i v) := by
  obtain ⟨v, hop, -⟩ := exists_common_operands (s := s) (s' := s) fun r hr =>
    (operand_of_exec_next hs h r hr).imp fun _ hv => ⟨hv, hv⟩
  exact ⟨v, Host.Outcome.next.inj (h.symm.trans (exec_eq_accept_captured hs hop))⟩

/-- Each of the first `j` steps of a call takes one off those it has left. -/
theorem State.Inv.seqRun_le_stepsLeft {s : State} (hinv : s.Inv) {j : Nat} (hj : j ≤ s.stepsLeft) :
    ∃ v, seqRun j s = .next v ∧ v.Inv ∧ v.stepsLeft + j = s.stepsLeft := by
  induction j with
  | zero => exact ⟨s, rfl, hinv, rfl⟩
  | succ j ih =>
    obtain ⟨v, hrun, hv, hleft⟩ := ih (by omega)
    obtain ⟨w, hw⟩ := hv.seqStep_next
    have hvleft := seqStep_stepsLeft (State.busy_of_stepsLeft_pos (by omega)) hw
    exact ⟨w, (seqRun_succ_last hrun).trans hw, seqStep_keeps_inv hv hw, by omega⟩

/-- Settles O17: START leaves the command's number of steps to go; while one is left the core is busy, so not done, and the
last of them ends the call. -/
theorem everyCallEndsAfterFixedSteps : Obligations.EveryCallEndsAfterFixedSteps := by
  intro i s t hidle h
  obtain ⟨v, rfl⟩ := exec_next_eq_accept_captured (State.phase_eq_idle.1 hidle) h
  have hinv := s.inv_accept_captured i v
  have hbusy := s.busy_accept (captured_ne_idle i v)
  rw [← s.stepsLeft_accept_captured i v]
  constructor
  · intro j hj
    obtain ⟨w, hrun, hw, hleft⟩ := hinv.seqRun_le_stepsLeft hj.le
    have hwbusy := State.busy_of_stepsLeft_pos (s := w) (by omega)
    exact ⟨w, hrun, hwbusy, hw.status.busy_done hwbusy⟩
  · obtain ⟨u, hrun, hu, hdone⟩ := hinv.seqRun_stepsLeft (by simp [hbusy])
    exact ⟨u, hrun, State.phase_eq_idle.2 hu, hdone⟩

/-! ### No faults (R97, R121) -/

/-- A START is ignored, accepted or refused (R43). -/
theorem exec_ne_fault (i : Instr) (s : State) (f : Fault) : exec i s ≠ .fault f := by
  by_cases hs : s.seq = .idle
  · rcases exec_startAnswer hs i with ⟨t, ht⟩ | ⟨r, -, -, hrefused⟩
    · simp [ht]
    · simp [hrefused]
  · simp [exec_of_busy hs]

theorem hostWrite_ne_fault (s : State) (r : OperandReg) (v : Source) (f : Fault) : hostWrite s r v ≠ .fault f := by
  cases v with
  | lit w => simp [hostWrite]
  | noted back => cases hnote : s.seen[back]? <;> simp [hostWrite, hnote]

theorem hostReadLine_ne_fault (s : State) (r : HostReg) (f : Fault) : hostReadLine s r ≠ .fault f := by
  cases hv : s.hostRead r with
  | none => simp [hostReadLine_none hv]
  | some v => simp [hostReadLine_some hv]

/-- The one fault of the model, an iteration past the scalar's last bit, is out of the invariant's reach. -/
theorem State.Inv.seqStep_ne_fault {s : State} (hinv : s.Inv) (f : Fault) : seqStep s ≠ .fault f := by
  obtain ⟨t, ht⟩ := hinv.seqStep_next
  simp [ht]

theorem State.Inv.step_ne_fault {s : State} (hinv : s.Inv) (f : Fault) : step s ≠ .fault f := by
  cases hs : s.script with
  | nil => exact step_of_nil hs ▸ hinv.seqStep_ne_fault f
  | cons l rest =>
    cases l with
    | wr r v => exact step_of_wr hs ▸ hostWrite_ne_fault _ r v f
    | start code => exact step_of_start hs ▸ exec_ne_fault _ _ f
    | wait =>
      cases hdone : s.done with
      | true => simp [step_of_wait_of_done hs hdone]
      | false => exact step_of_wait_of_not_done hs hdone ▸ hinv.seqStep_ne_fault f
    | rd r => exact step_of_rd hs ▸ hostReadLine_ne_fault _ r f
    | reset => simp [step_of_reset hs]
    | tick => exact step_of_tick hs ▸ (hinv.setScript rest).seqStep_ne_fault f

/-- Settles O31: no host line faults at all, and the sequencer's turn answers a next state under the invariant. -/
theorem noStepFaults : Obligations.NoStepFaults :=
  fun _ hinv => ⟨hinv.step_ne_fault, hinv.seqStep_next⟩

/-! ### RESET (R115, R116) -/

@[simp] theorem State.operand_resetCore (s : State) (r : OperandReg) : s.resetCore.operand r = none := by
  cases r <;> rfl

@[simp] theorem State.callView_resetCore (s : State) : s.resetCore.callView = State.reset.callView := rfl

/-- After RESET, STATUS reads 0x00 (R29). -/
theorem State.statusByte_resetCore (s : State) : s.resetCore.statusByte = 0x00 := by
  obtain ⟨-, -, hstatus, -⟩ := State.callView_eq_iff.1 s.callView_resetCore
  rw [hstatus]
  decide

/-- Settles O24: the line answers `resetCore`, whatever the phase, which keeps the host's lines and notes alone. -/
theorem resetEventRestoresResetState : Obligations.ResetEventRestoresResetState := by
  intro s rest hs
  exact ⟨_, step_of_reset hs, rfl, State.statusByte_resetCore _, rfl, State.operand_resetCore _, rfl, rfl, rfl, rfl, rfl,
    State.callView_resetCore _, rfl, rfl⟩

end Sys2Proof.Machine
end

section
/-! SUPPORT. What an event does to the host's lines and notes, and that no line comes to name a note the host does not have
(spec/30_encoding.md R46, R47; notes/assumptions/2.md, notes/assumptions/12.md). -/

namespace Sys2Proof.Machine

/-- How many notes a host line adds once it is taken off: one for a read (R28), none for any other line. -/
def HostLine.noteCount : HostLine → Nat
  | .rd _ => 1
  | .wr _ _ => 0
  | .start _ => 0
  | .wait => 0
  | .reset => 0
  | .tick => 0

/-- Behind its first line, a well-formed script is well-formed with the note that line adds. -/
theorem scriptWellFormed_of_cons {noted : Nat} {l : HostLine} {rest : List HostLine}
    (h : scriptWellFormed noted (l :: rest) = true) : scriptWellFormed (noted + l.noteCount) rest = true := by
  cases l with
  | wr r v => exact (Bool.and_eq_true_iff.1 h).2
  | rd r => exact h
  | start code => exact h
  | wait => exact h
  | reset => exact h
  | tick => exact h

theorem seqStep_seen {s t : State} (h : seqStep s = .next t) : t.seen = s.seen := by
  obtain ⟨-, -, -, -, -, -, hseen, -⟩ := completionIsAtomic s t h
  exact hseen

theorem exec_script {i : Instr} {s t : State} (h : exec i s = .next t) : t.script = s.script := by
  obtain ⟨-, -, -, -, -, hscript, -⟩ := startFrame i s t h
  exact hscript

theorem exec_seen {i : Instr} {s t : State} (h : exec i s = .next t) : t.seen = s.seen := by
  obtain ⟨-, -, -, -, -, -, hseen, -⟩ := startFrame i s t h
  exact hseen

/-- An event leaves the host's lines and notes alone, where it is a turn of the sequencer without a `tick` line, or it takes
the next line off and adds the note of that line. -/
theorem step_host_cases {s t : State} (h : step s = .next t) :
    (t.script = s.script ∧ t.seen = s.seen) ∨
      ∃ l rest, s.script = l :: rest ∧ t.script = rest ∧ t.seen.length = s.seen.length + l.noteCount := by
  cases hs : s.script with
  | nil =>
    rw [step_of_nil hs] at h
    exact .inl ⟨(seqStep_script h).trans hs, seqStep_seen h⟩
  | cons l rest =>
    cases l with
    | wr r v =>
      rw [step_of_wr hs] at h
      obtain ⟨w, rfl⟩ := hostWrite_next h
      exact .inr ⟨_, _, rfl, by simp, by simp [HostLine.noteCount]⟩
    | start code =>
      rw [step_of_start hs] at h
      exact .inr ⟨_, _, rfl, exec_script h, by simp [exec_seen h, HostLine.noteCount]⟩
    | wait =>
      cases hdone : s.done with
      | true =>
        rw [step_of_wait_of_done hs hdone] at h
        obtain rfl := Host.Outcome.next.inj h
        exact .inr ⟨_, _, rfl, rfl, rfl⟩
      | false =>
        rw [step_of_wait_of_not_done hs hdone] at h
        exact .inl ⟨(seqStep_script h).trans hs, seqStep_seen h⟩
    | rd r =>
      rw [step_of_rd hs] at h
      obtain ⟨v, rfl⟩ := hostReadLine_next h
      exact .inr ⟨_, _, rfl, rfl, rfl⟩
    | reset =>
      rw [step_of_reset hs] at h
      obtain rfl := Host.Outcome.next.inj h
      exact .inr ⟨_, _, rfl, rfl, rfl⟩
    | tick =>
      rw [step_of_tick hs] at h
      exact .inr ⟨_, _, rfl, seqStep_script h, by simp [seqStep_seen h, HostLine.noteCount]⟩

/-- Settles O33: a step leaves the lines and notes alone or takes one line off, and the rest of a well-formed script is
well-formed with the note of that line. -/
theorem scriptStaysWellFormed : Obligations.ScriptStaysWellFormed := by
  intro s t hwf hstep
  rcases step_host_cases hstep with ⟨hscript, hseen⟩ | ⟨l, rest, hs, hscript, hlength⟩
  · rwa [hscript, hseen]
  · rw [hs] at hwf
    rw [hscript, hlength]
    exact scriptWellFormed_of_cons hwf

end Sys2Proof.Machine
end
